-- ==== Sys2Proof/Word.lean ====
section
/-! DEFINITION. Words, bytes and register numbers (10_state.md R10, R23; 20_memory.md R31). -/

namespace Sys2Proof

/-- A register value, an address or the program counter: 16 bits (R10, R14, R23). -/
abbrev Word := BitVec 16

/-- One byte of memory: 8 bits (R23). -/
abbrev Byte := BitVec 8

/-- The number of a general register, x0 to x15 (R10, R52). No register is hard-wired (R11). -/
abbrev Reg := Fin 16

/-- x0, the return address register that `jalr`, `jsal` and `jal` write (R10, R12). -/
def Reg.ra : Reg := 0

/-- x1, the stack pointer that `lwsp` and `swsp` read (R10, R12). -/
def Reg.sp : Reg := 1

end Sys2Proof
end

