-- ==== Sys2Proof/Config.lean ====
section
/-! DEFINITION. What a launch fixes for a whole run (00_scope.md R3: the parameters the manual leaves open), and
the free values: constants without a body, of which nothing can be proved. -/

namespace Sys2Proof

/-- DATA_ENDIAN, the byte order of a 16-bit data access (R32, D1). -/
inductive DataEndian where
  | little
  | big
deriving DecidableEq, Repr

/-- MEM_ORG, one memory for code and data or two (R39, D3). -/
inductive MemOrg where
  /-- The spec's default, `open`: a data access into IMEM_RANGE is refused (`RefusedCodeAccess`). -/
  | refuse
  /-- IMem and DMem are one array. -/
  | unified
  /-- IMem and DMem are two arrays. -/
  | split
  /-- The model's own value: one of the two organisations, `Config.codeShared` says which (DESIGN CHOICE, log 8). -/
  | free
deriving DecidableEq, Repr

/-- MISALIGNED_WORD, what a word access at an odd address does (R36, D4). -/
inductive MisalignedWord where
  /-- The spec's default: stop with `MisalignedFault`. -/
  | fault
  /-- The two byte accesses at `addr` and `addr + 1`. -/
  | split
  /-- Bit 0 of the address is cleared first. -/
  | mask
  /-- The model's own value: `split` or `mask`, `Config.misalignedMasks` says which (DESIGN CHOICE, log 7). -/
  | free
deriving DecidableEq, Repr

/-- SHIFT_AMOUNT, what a register shift by 16 or more does (R116, D7). -/
inductive ShiftAmount where
  /-- The spec's default: stop with `RefusedShiftAmount`. -/
  | refuse
  /-- The low four bits of the amount. -/
  | low4
  /-- The amount itself: everything is shifted out. -/
  | full
  /-- The model's own value: the result is a free value (DESIGN CHOICE, log 6). -/
  | free
deriving DecidableEq, Repr

/-- J24_ADMITTED together with J24_MEANS: what the one word pattern printed for `j` and `jal` is (R77, R129, D11). -/
inductive J24 where
  | notAdmitted
  | j
  | jal
deriving DecidableEq, Repr

/-- JAL_LINK_OFFSET, what `jal` adds to pc for the link value (R128, D12). -/
inductive JalLink where
  | plus3
  | plus4
deriving DecidableEq, Repr

/-- The parameters of R3 that a launch may fix, to any value but the model's own `free` (R204, `Params.listed`). INSN_ENDIAN has one value only (R33), RESET_PC is the launch's
(`Machine.Launch`), and the two ranges stand in State beside these. -/
structure Params where
  dataEndian : DataEndian
  memOrg : MemOrg
  misalignedWord : MisalignedWord
  shiftAmount : ShiftAmount
  sbAdmitted : Bool
  j24 : J24
  jalLink : JalLink
deriving DecidableEq, Repr

/-- The addresses `base` to `base + len - 1` (R203). -/
structure AddrRange where
  base : Nat
  len : Nat
deriving DecidableEq, Repr

/-- The free values: what a register shift by 16 or more writes where SHIFT_AMOUNT is `free` (DESIGN CHOICE,
log 6). The step applies it to the counter `State.draws`, so that each use has a value of its own. -/
opaque Config.freeValue : Nat → BitVec 16

/-- Where MISALIGNED_WORD is `free`: does the hardware clear bit 0 of an odd word address (`mask`), or access the
two bytes as they are (`split`)? (DESIGN CHOICE, log 7.) -/
opaque Config.misalignedMasks : Bool

/-- Where MEM_ORG is `free`, or left open as `refuse`: are code and data one memory? (DESIGN CHOICE, logs 8, 27.) -/
opaque Config.codeShared : Bool

end Sys2Proof
end

