-- ==== Sys2Proof/Machine/Params.lean ====
section
/-! DEFINITION. The values the parameters have: the spec's defaults (00_scope.md R3) and those of `State.reset`. -/

namespace Sys2Proof

/-- The default column of R3's table: what the vectors of 95_test_vectors.md assume. -/
def Params.specDefaults : Params where
  dataEndian := .little
  memOrg := .refuse
  misalignedWord := .fault
  shiftAmount := .refuse
  sbAdmitted := true
  j24 := .notAdmitted
  jalLink := .plus3

/-- The parameters at reset: R3's defaults, but for the three whose default stops a run for want of a choice
(SHIFT_AMOUNT, MISALIGNED_WORD, MEM_ORG): these are `free`, so that the instruction runs and nothing is known of
the open value (DESIGN CHOICE, logs 6, 7, 8). -/
def Params.atReset : Params :=
  { Params.specDefaults with memOrg := .free, misalignedWord := .free, shiftAmount := .free }

/-- Is every parameter in the set of values R3 gives it? Only the three values `free` are not: they are the model's
own (logs 6, 7, 8), and no launch may give one (R204; log 23). -/
def Params.listed (p : Params) : Bool :=
  decide (p.memOrg ≠ .free) && decide (p.misalignedWord ≠ .free) && decide (p.shiftAmount ≠ .free)

/-- RESET_PC's default (R19, R200, D13; log 2). -/
def resetPc : Word := 0x0000#16

/-- DMEM_RANGE at reset: the whole 16-bit address space (DESIGN CHOICE, log 5). -/
def resetDmemRange : List AddrRange := [⟨0, 65536⟩]

/-- IMEM_RANGE at reset: empty, no launch has supplied an image (DESIGN CHOICE, log 4). -/
def resetImemRange : AddrRange := ⟨0, 0⟩

end Sys2Proof
end

