-- ==== Sys2Proof/Machine/State.lean ====
section
/-! DEFINITION. The machine's state as plain data (10_state.md R10 to R26), why a step can stop (60_exceptions.md
R181, R182), and the state after reset (70_reset_and_hazards.md R200). -/

namespace Sys2Proof.Machine

/-- A byte map: (address, byte) pairs, addresses strictly rising (`Memory.wf`). An address that is not listed holds
no value (R25, R37, log 3), so no entry equals what an unlisted address reads as. -/
abbrev Memory := List Host.Cell

/-- The model faults of R182: the sources give no behaviour at all. Terminal; nothing of the instruction is
committed (R181). -/
inductive Fault where
  /-- Raised by the fetch: the byte at `addr` is outside IMEM_RANGE, or the image holds no byte there (R38). Safe. -/
  | fetchFault (addr : Word)
  /-- Raised by the step: the word at `pc` is a reserved encoding (R80, R81); a 16-bit word has zeros above it.
  Safe. -/
  | illegalInstruction (pc : Word) (insn : BitVec 24)
  /-- Raised by a load or store outside DMEM_RANGE, or a load of a byte that holds no value (R37). Safe. -/
  | accessFault (addr : Word)
deriving DecidableEq, Repr

/-- The refusals of R182: a launch has set an open parameter to the value that declines to choose. Terminal; nothing
of the instruction is committed (R181). -/
inductive Refusal where
  /-- Raised by an arm of `exec` whose instruction has no meaning yet; no arm does. Safe. -/
  | notModelled (mnemonic : String)
  /-- Raised by `lsl lsr asr lsl2 lsr2 asr2` with an amount `v` of 16 or more where SHIFT_AMOUNT is `refuse` (R116).
  Safe. -/
  | refusedShiftAmount (pc : Word) (v : Word)
  /-- Raised by `lw sw lwsp swsp` at an odd address where MISALIGNED_WORD is `fault` (R36). Safe. -/
  | misalignedFault (addr : Word)
  /-- Raised by a load or store into IMEM_RANGE where MEM_ORG is `refuse`, the spec's `open` (R39). Safe. -/
  | refusedCodeAccess (addr : Word)
deriving DecidableEq, Repr

/-- Everything the spec gives the machine (R10 to R26), what the launch fixed (R3, R203), and the model's own count
of free values used. -/
structure State where
  /-- x0 to x15 (R10). -/
  regs : Vector Word 16
  /-- The address of the instruction being executed (R14, R15). -/
  pc : Word
  /-- The program image, IMem (R24, R38). -/
  imem : Memory
  /-- Data memory, DMem (R24, R34, R35). -/
  dmem : Memory
  /-- IMEM_RANGE (R38, R39, R203). -/
  imemRange : AddrRange
  /-- DMEM_RANGE (R37, R203). -/
  dmemRange : List AddrRange
  /-- The open parameters (R3). -/
  params : Params
  /-- The model's own field: how many free values have been used (DESIGN CHOICE, log 24). -/
  draws : Nat
deriving DecidableEq, Repr

/-- The machine after reset (R200): pc at RESET_PC, no byte of memory holding a value. The registers' values, the
ranges and the three free parameters are the model's choices (logs 1, 4, 5, 6, 7, 8). -/
def State.reset : State where
  regs := Vector.replicate 16 0x0000#16
  pc := resetPc
  imem := []
  dmem := []
  imemRange := resetImemRange
  dmemRange := resetDmemRange
  params := Params.atReset
  draws := 0

end Sys2Proof.Machine
end

