-- ==== Sys2Proof/Machine/Memory.lean ====
section
/-! DEFINITION. Byte maps and address ranges (20_memory.md R23, R37, R38; 10_state.md R25). -/

namespace Sys2Proof.Machine

/-- The byte at an address, or that it holds no value (R25, R37). -/
def Memory.read : Memory → Nat → Option Byte
  | [], _ => none
  | (k, b) :: m, a => if a = k then some b else Memory.read m a

/-- Give the byte at an address a value; the list stays in address order. -/
def Memory.write : Memory → Nat → Byte → Memory
  | [], a, v => [(a, v)]
  | (k, b) :: m, a, v =>
    if a < k then (a, v) :: (k, b) :: m
    else if a = k then (a, v) :: m
    else (k, b) :: Memory.write m a v

/-- Addresses strictly rising from `lo`, all of 16 bits (R23). -/
def Memory.risingFrom : Nat → Memory → Bool
  | _, [] => true
  | lo, (k, _) :: m => decide (lo ≤ k) && decide (k < 65536) && Memory.risingFrom (k + 1) m

/-- The canonical form: addresses strictly rising, all of 16 bits. -/
def Memory.wf (m : Memory) : Bool := Memory.risingFrom 0 m

/-- The bytes `bs` at `a`, `a + 1`, … modulo 65536. -/
def Memory.writeAll (m : Memory) (a : Nat) : List Byte → Memory
  | [] => m
  | b :: bs => Memory.writeAll (Memory.write m (a % 65536) b) (a + 1) bs

/-- Is the address one of `base` to `base + len - 1`? (R203) -/
def rangeHas (r : AddrRange) (a : Nat) : Bool := decide (r.base ≤ a) && decide (a < r.base + r.len)

end Sys2Proof.Machine
end

