-- ==== Sys2Proof/Machine/Operands.lean ====
section
/-! DEFINITION. What an operand stands for: registers (10_state.md R10, R11), immediates (00_scope.md R6), bytes of
words (20_memory.md R32), addresses (R30), shifts (R6, 40_int24.md R116). -/

namespace Sys2Proof.Machine

/-! ## Registers and pc -/

/-- `x[i]` (R6); no register is hard-wired (R11). -/
def State.reg (s : State) (r : Reg) : Word := s.regs[r.val]

/-- `x[i] <- v` (R6, R11). -/
def State.setReg (s : State) (r : Reg) (v : Word) : State := { s with regs := s.regs.set r v }

/-- `pc <- t` (R6). -/
def State.setPc (s : State) (t : Word) : State := { s with pc := t }

/-- `pc <- pc + len`, modulo 65536 (R8, R16, R18). -/
def State.advance (s : State) (len : Word) : State := s.setPc (s.pc + len)

/-- Use one free value (log 24). -/
def State.draw (s : State) : State := { s with draws := s.draws + 1 }

/-! ## Immediates and bytes -/

/-- `sext_N` (R6). -/
def sext {n : Nat} (v : BitVec n) : Word := v.signExtend 16

/-- `zext_N` (R6). -/
def zext {n : Nat} (v : BitVec n) : Word := v.setWidth 16

/-- The word whose first byte in memory is `b0` and second `b1` (R32, R34). -/
def joinBytes : DataEndian → Byte → Byte → Word
  | .little, b0, b1 => b1 ++ b0
  | .big, b0, b1 => b0 ++ b1

/-- The byte of a word that stands first in memory (R32, R35). -/
def firstByte : DataEndian → Word → Byte
  | .little, v => v.extractLsb' 0 8
  | .big, v => v.extractLsb' 8 8

/-- The byte of a word that stands second in memory (R32, R35). -/
def secondByte : DataEndian → Word → Byte
  | .little, v => v.extractLsb' 8 8
  | .big, v => v.extractLsb' 0 8

/-! ## Addresses -/

/-- The effective address of the 24-bit loads and stores (R30, R130). -/
def State.ea (s : State) (base : Reg) (simm10 : BitVec 10) : Word := s.reg base + sext simm10

/-- The effective address of `lwsp` and `swsp` (R30, R170, R171). -/
def State.eaSp (s : State) (uimm7 : BitVec 7) : Word := s.reg Reg.sp + zext uimm7

/-! ## Shifts -/

/-- The three shifts: `<<`, `>>u`, `>>s` (R6). -/
inductive ShiftOp where
  | lsl
  | lsr
  | asr
deriving DecidableEq, Repr

/-- Shift by `n` bits (R6). By 16 and more, everything is shifted out: `lsl` and `lsr` give 0, `asr` the sign bit
everywhere, as R116 says of SHIFT_AMOUNT = `full`. -/
def shift : ShiftOp → Word → Nat → Word
  | .lsl, a, n => a <<< n
  | .lsr, a, n => a >>> n
  | .asr, a, n => a.sshiftRight n

/-- The low four bits of a shift amount (R116, `low4`). -/
def low4 (v : Word) : Nat := (v.extractLsb' 0 4).toNat

/-- JAL_LINK_OFFSET (R128, D12). -/
def jalLinkOffset : JalLink → Word
  | .plus3 => 3#16
  | .plus4 => 4#16

end Sys2Proof.Machine
end

