-- ==== Sys2Proof/Machine/Flags.lean ====
section
/-! DEFINITION. CAHPv3 has no flags and no condition codes (10_state.md R20), so no instruction computes one. What
stands in their place is here: the comparisons of two registers that the conditional branches make (41_branch24.md
R121 to R126). -/

namespace Sys2Proof.Machine

/-- `beq` (R121): all 16 bits compared. -/
def condEq (a b : Word) : Bool := a == b

/-- `bne` (R122). -/
def condNe (a b : Word) : Bool := !(a == b)

/-- `blt` (R123): both read as two's complement numbers. -/
def condLtSigned (a b : Word) : Bool := a.slt b

/-- `bltu` (R124): both read as numbers 0 to 65535. -/
def condLtUnsigned (a b : Word) : Bool := a.ult b

/-- `ble` (R125): both read as two's complement numbers. -/
def condLeSigned (a b : Word) : Bool := a.sle b

/-- `bleu` (R126): both read as numbers 0 to 65535. -/
def condLeUnsigned (a b : Word) : Bool := a.ule b

end Sys2Proof.Machine
end

