-- ==== Sys2Proof/Machine/Ops.lean ====
section
/-! DEFINITION. The shared operations: data memory (20_memory.md R34 to R39), the ends an instruction can have, and
the register shift (40_int24.md R116). CAHPv3 has no exception, no trap and no return from one (60_exceptions.md
R180, R184, R185), so there is no such operation: what a meaning cannot do stops the model (R181, R182). -/

namespace Sys2Proof.Machine

/-- What an operation answers: a value, a fault or a refusal. -/
abbrev Res (α : Type) := Host.Outcome α Fault Refusal

/-- Go on with the value, or stop as the first operation stopped. -/
def andThen {α β : Type} (r : Res α) (f : α → Res β) : Res β :=
  match r with
  | .next a => f a
  | .fault e => .fault e
  | .refused e => .refused e

/-! ## Data memory -/

/-- `Declared_D(addr)`: in DMEM_RANGE (R37). -/
def State.declared (s : State) (a : Nat) : Bool := s.dmemRange.any fun r => rangeHas r a

/-- `CodeRegion(addr)`: in IMEM_RANGE (R39). -/
def State.inCode (s : State) (a : Nat) : Bool := rangeHas s.imemRange a

/-- Are code and data one memory, so that DMem inside IMEM_RANGE is the program image? (R24, R39.) `refuse`, the spec's
`open`, leaves it open as `free` does: no access gets that far, but a byte read back (R207) depends on it (DESIGN CHOICE,
log 27). -/
def State.codeShared (s : State) : Bool :=
  match s.params.memOrg with
  | .refuse => Config.codeShared
  | .unified => true
  | .split => false
  | .free => Config.codeShared

/-- A data access to this address reaches the image: an address of IMEM_RANGE, code and data being one memory. -/
def State.toImage (s : State) (a : Nat) : Bool := s.inCode a && s.codeShared

/-- The byte a data access finds at an address, if it holds a value (R34, R39). -/
def State.dataByte (s : State) (a : Nat) : Option Byte :=
  if s.toImage a then Memory.read s.imem a else Memory.read s.dmem a

/-- Write the byte a data access finds at an address (R35, R39). -/
def State.putByte (s : State) (a : Nat) (b : Byte) : State :=
  { s with
    imem := if s.toImage a then Memory.write s.imem a b else s.imem
    dmem := if s.toImage a then s.dmem else Memory.write s.dmem a b }

/-- The checks that a load and a store of one byte share, in the order of R34, R35 and R183 step 7. -/
def State.checkByte (s : State) (a : Word) : Res Unit :=
  if !s.declared a.toNat then .fault (.accessFault a)
  else if s.inCode a.toNat && s.params.memOrg == .refuse then .refused (.refusedCodeAccess a)
  else .next ()

/-- `MemRead(addr, 1)` (R34). -/
def State.readByte (s : State) (a : Word) : Res Byte :=
  andThen (s.checkByte a) fun _ =>
    match s.dataByte a.toNat with
    | some b => .next b
    | none => .fault (.accessFault a)

/-- `MemWrite(addr, 1, v)` (R35). -/
def State.writeByte (s : State) (a : Word) (b : Byte) : Res State :=
  andThen (s.checkByte a) fun _ => .next (s.putByte a.toNat b)

/-- The address with bit 0 cleared (R36, `mask`). -/
def clearBit0 (a : Word) : Word := a &&& 0xFFFE#16

/-- The address a word access goes to: an even one as it is, an odd one as MISALIGNED_WORD says (R36). -/
def State.wordAddr (s : State) (a : Word) : Res Word :=
  if a[0] then
    match s.params.misalignedWord with
    | .fault => .refused (.misalignedFault a)
    | .split => .next a
    | .mask => .next (clearBit0 a)
    | .free => .next (if Config.misalignedMasks then clearBit0 a else a)
  else .next a

/-- `MemRead(addr, 2)` (R34): the byte at the address, then the next one modulo 65536. -/
def State.readWord (s : State) (a : Word) : Res Word :=
  andThen (s.wordAddr a) fun a =>
    andThen (s.readByte a) fun b0 =>
      andThen (s.readByte (a + 1#16)) fun b1 => .next (joinBytes s.params.dataEndian b0 b1)

/-- Both bytes of a word, the lower address first. -/
def State.putWord (s : State) (a : Word) (v : Word) : State :=
  (s.putByte a.toNat (firstByte s.params.dataEndian v)).putByte (a + 1#16).toNat
    (secondByte s.params.dataEndian v)

/-- `MemWrite(addr, 2, v)` (R35): both bytes are checked before either is written. -/
def State.writeWord (s : State) (a : Word) (v : Word) : Res State :=
  andThen (s.wordAddr a) fun a =>
    andThen (s.checkByte a) fun _ =>
      andThen (s.checkByte (a + 1#16)) fun _ => .next (s.putWord a v)

/-! ## How an instruction ends -/

/-- `x[rd] <- v; pc <- pc + len` (R7, R8). -/
def writeReg (len : Word) (rd : Reg) (v : Word) (s : State) : Res State :=
  .next ((s.setReg rd v).advance len)

/-- `pc <- t`, no register written. -/
def jumpTo (t : Word) (s : State) : Res State := .next (s.setPc t)

/-- `x[0] <- link; pc <- t`, both from values read before either (R7, R12). -/
def linkAndJump (link t : Word) (s : State) : Res State := .next ((s.setReg Reg.ra link).setPc t)

/-- A conditional branch (R120): `pc + imm` where the condition holds, `pc + 3` else. -/
def branch (taken : Bool) (simm10 : BitVec 10) (s : State) : Res State :=
  jumpTo (if taken then s.pc + sext simm10 else s.pc + 3#16) s

/-- Shift `a` by a register's value `v` (R116). An amount of 16 or more is SHIFT_AMOUNT's: under `free` the result
is a free value and everything else happens as for any amount (log 6). -/
def shiftByReg (op : ShiftOp) (len : Word) (rd : Reg) (a v : Word) (s : State) : Res State :=
  if v.toNat < 16 then writeReg len rd (shift op a v.toNat) s
  else
    match s.params.shiftAmount with
    | .refuse => .refused (.refusedShiftAmount s.pc v)
    | .low4 => writeReg len rd (shift op a (low4 v)) s
    | .full => writeReg len rd (shift op a v.toNat) s
    | .free => writeReg len rd (Config.freeValue s.draws) s.draw

/-- A word load: read the two bytes, write `rd`, advance (R131, R170). -/
def loadWord (len : Word) (rd : Reg) (ea : Word) (s : State) : Res State :=
  andThen (s.readWord ea) fun v => writeReg len rd v s

/-- A byte load: read the byte, write `rd` with what `ext` makes of it, advance (R132, R133). -/
def loadByte (len : Word) (ext : Byte → Word) (rd : Reg) (ea : Word) (s : State) : Res State :=
  andThen (s.readByte ea) fun b => writeReg len rd (ext b) s

/-- A word store, then the advance (R134, R171). -/
def storeWord (len : Word) (ea v : Word) (s : State) : Res State :=
  andThen (s.writeWord ea v) fun t => .next (t.advance len)

/-- A byte store, then the advance (R135). -/
def storeByte (len : Word) (ea : Word) (b : Byte) (s : State) : Res State :=
  andThen (s.writeByte ea b) fun t => .next (t.advance len)

end Sys2Proof.Machine
end

