-- ==== Sys2Proof/Machine/Branch24.lean ====
section
/-! DEFINITION. The 24-bit conditional branches and the list-only jumps (41_branch24.md R120 to R129). -/

namespace Sys2Proof.Machine

/-- `beq rs1, rs2, simm10` (R120, R121). -/
def execBeq (rs1 rs2 : Reg) (simm10 : BitVec 10) (s : State) : Res State :=
  branch (condEq (s.reg rs1) (s.reg rs2)) simm10 s

/-- `bne rs1, rs2, simm10` (R120, R122). -/
def execBne (rs1 rs2 : Reg) (simm10 : BitVec 10) (s : State) : Res State :=
  branch (condNe (s.reg rs1) (s.reg rs2)) simm10 s

/-- `blt rs1, rs2, simm10` (R120, R123). -/
def execBlt (rs1 rs2 : Reg) (simm10 : BitVec 10) (s : State) : Res State :=
  branch (condLtSigned (s.reg rs1) (s.reg rs2)) simm10 s

/-- `bltu rs1, rs2, simm10` (R120, R124). -/
def execBltu (rs1 rs2 : Reg) (simm10 : BitVec 10) (s : State) : Res State :=
  branch (condLtUnsigned (s.reg rs1) (s.reg rs2)) simm10 s

/-- `ble rs1, rs2, simm10` (R120, R125). -/
def execBle (rs1 rs2 : Reg) (simm10 : BitVec 10) (s : State) : Res State :=
  branch (condLeSigned (s.reg rs1) (s.reg rs2)) simm10 s

/-- `bleu rs1, rs2, simm10` (R120, R126). -/
def execBleu (rs1 rs2 : Reg) (simm10 : BitVec 10) (s : State) : Res State :=
  branch (condLeUnsigned (s.reg rs1) (s.reg rs2)) simm10 s

/-- `j simm16` (R127). -/
def execJ (simm16 : BitVec 16) (s : State) : Res State := jumpTo (s.pc + simm16) s

/-- `jal simm16` (R128): the link is pc plus JAL_LINK_OFFSET. -/
def execJal (simm16 : BitVec 16) (s : State) : Res State :=
  linkAndJump (s.pc + jalLinkOffset s.params.jalLink) (s.pc + simm16) s

end Sys2Proof.Machine
end

