-- ==== Sys2Proof/Machine/Int16.lean ====
section
/-! DEFINITION. The 16-bit integer computational instructions (43_int16.md R140 to R155). -/

namespace Sys2Proof.Machine

/-- `mov rd, rs` (R148). -/
def execMov (rd rs : Reg) (s : State) : Res State := writeReg 2#16 rd (s.reg rs) s

/-- `add2 rd, rs` (R140). -/
def execAdd2 (rd rs : Reg) (s : State) : Res State :=
  writeReg 2#16 rd (s.reg rd + s.reg rs) s

/-- `sub2 rd, rs` (R141) (C2: the formula `rd - rs`). -/
def execSub2 (rd rs : Reg) (s : State) : Res State :=
  writeReg 2#16 rd (s.reg rd - s.reg rs) s

/-- `and2 rd, rs` (R142). -/
def execAnd2 (rd rs : Reg) (s : State) : Res State :=
  writeReg 2#16 rd (s.reg rd &&& s.reg rs) s

/-- `xor2 rd, rs` (R143). -/
def execXor2 (rd rs : Reg) (s : State) : Res State :=
  writeReg 2#16 rd (s.reg rd ^^^ s.reg rs) s

/-- `or2 rd, rs` (R144). -/
def execOr2 (rd rs : Reg) (s : State) : Res State :=
  writeReg 2#16 rd (s.reg rd ||| s.reg rs) s

/-- `lsl2 rd, rs` (R145, R116). -/
def execLsl2 (rd rs : Reg) (s : State) : Res State :=
  shiftByReg .lsl 2#16 rd (s.reg rd) (s.reg rs) s

/-- `lsr2 rd, rs` (R146, R116). -/
def execLsr2 (rd rs : Reg) (s : State) : Res State :=
  shiftByReg .lsr 2#16 rd (s.reg rd) (s.reg rs) s

/-- `asr2 rd, rs` (R147, R116). -/
def execAsr2 (rd rs : Reg) (s : State) : Res State :=
  shiftByReg .asr 2#16 rd (s.reg rd) (s.reg rs) s

/-- `addi2 rd, simm6` (R149). -/
def execAddi2 (rd : Reg) (simm6 : BitVec 6) (s : State) : Res State :=
  writeReg 2#16 rd (s.reg rd + sext simm6) s

/-- `andi2 rd, simm6` (R150). -/
def execAndi2 (rd : Reg) (simm6 : BitVec 6) (s : State) : Res State :=
  writeReg 2#16 rd (s.reg rd &&& sext simm6) s

/-- `lsi rd, simm6` (R151). -/
def execLsi (rd : Reg) (simm6 : BitVec 6) (s : State) : Res State :=
  writeReg 2#16 rd (sext simm6) s

/-- `lui rd, simm6` (R152). -/
def execLui (rd : Reg) (simm6 : BitVec 6) (s : State) : Res State :=
  writeReg 2#16 rd (shift .lsl (sext simm6) 10) s

/-- `lsli2 rd, uimm4` (R153). -/
def execLsli2 (rd : Reg) (uimm4 : BitVec 4) (s : State) : Res State :=
  writeReg 2#16 rd (shift .lsl (s.reg rd) uimm4.toNat) s

/-- `lsri2 rd, uimm4` (R154). -/
def execLsri2 (rd : Reg) (uimm4 : BitVec 4) (s : State) : Res State :=
  writeReg 2#16 rd (shift .lsr (s.reg rd) uimm4.toNat) s

/-- `asri2 rd, uimm4` (R155). -/
def execAsri2 (rd : Reg) (uimm4 : BitVec 4) (s : State) : Res State :=
  writeReg 2#16 rd (shift .asr (s.reg rd) uimm4.toNat) s

end Sys2Proof.Machine
end

