-- ==== Sys2Proof/Machine/Int24.lean ====
section
/-! DEFINITION. The 24-bit integer computational instructions (40_int24.md R100 to R116). -/

namespace Sys2Proof.Machine

/-- `add rd, rs1, rs2` (R100). -/
def execAdd (rd rs1 rs2 : Reg) (s : State) : Res State :=
  writeReg 3#16 rd (s.reg rs1 + s.reg rs2) s

/-- `sub rd, rs1, rs2` (R101). -/
def execSub (rd rs1 rs2 : Reg) (s : State) : Res State :=
  writeReg 3#16 rd (s.reg rs1 - s.reg rs2) s

/-- `and rd, rs1, rs2` (R102). -/
def execAnd (rd rs1 rs2 : Reg) (s : State) : Res State :=
  writeReg 3#16 rd (s.reg rs1 &&& s.reg rs2) s

/-- `xor rd, rs1, rs2` (R103). -/
def execXor (rd rs1 rs2 : Reg) (s : State) : Res State :=
  writeReg 3#16 rd (s.reg rs1 ^^^ s.reg rs2) s

/-- `or rd, rs1, rs2` (R104). -/
def execOr (rd rs1 rs2 : Reg) (s : State) : Res State :=
  writeReg 3#16 rd (s.reg rs1 ||| s.reg rs2) s

/-- `lsl rd, rs1, rs2` (R105, R116). -/
def execLsl (rd rs1 rs2 : Reg) (s : State) : Res State :=
  shiftByReg .lsl 3#16 rd (s.reg rs1) (s.reg rs2) s

/-- `lsr rd, rs1, rs2` (R106, R116). -/
def execLsr (rd rs1 rs2 : Reg) (s : State) : Res State :=
  shiftByReg .lsr 3#16 rd (s.reg rs1) (s.reg rs2) s

/-- `asr rd, rs1, rs2` (R107, R116). -/
def execAsr (rd rs1 rs2 : Reg) (s : State) : Res State :=
  shiftByReg .asr 3#16 rd (s.reg rs1) (s.reg rs2) s

/-- `addi rd, rs1, simm10` (R108). -/
def execAddi (rd rs1 : Reg) (simm10 : BitVec 10) (s : State) : Res State :=
  writeReg 3#16 rd (s.reg rs1 + sext simm10) s

/-- `andi rd, rs1, simm10` (R109). -/
def execAndi (rd rs1 : Reg) (simm10 : BitVec 10) (s : State) : Res State :=
  writeReg 3#16 rd (s.reg rs1 &&& sext simm10) s

/-- `xori rd, rs1, simm10` (R110). -/
def execXori (rd rs1 : Reg) (simm10 : BitVec 10) (s : State) : Res State :=
  writeReg 3#16 rd (s.reg rs1 ^^^ sext simm10) s

/-- `ori rd, rs1, simm10` (R111). -/
def execOri (rd rs1 : Reg) (simm10 : BitVec 10) (s : State) : Res State :=
  writeReg 3#16 rd (s.reg rs1 ||| sext simm10) s

/-- `li rd, simm10` (R112). -/
def execLi (rd : Reg) (simm10 : BitVec 10) (s : State) : Res State :=
  writeReg 3#16 rd (sext simm10) s

/-- `lsli rd, rs1, uimm4` (R113). -/
def execLsli (rd rs1 : Reg) (uimm4 : BitVec 4) (s : State) : Res State :=
  writeReg 3#16 rd (shift .lsl (s.reg rs1) uimm4.toNat) s

/-- `lsri rd, rs1, uimm4` (R114). -/
def execLsri (rd rs1 : Reg) (uimm4 : BitVec 4) (s : State) : Res State :=
  writeReg 3#16 rd (shift .lsr (s.reg rs1) uimm4.toNat) s

/-- `asri rd, rs1, uimm4` (R115). -/
def execAsri (rd rs1 : Reg) (uimm4 : BitVec 4) (s : State) : Res State :=
  writeReg 3#16 rd (shift .asr (s.reg rs1) uimm4.toNat) s

end Sys2Proof.Machine
end

