-- ==== Sys2Proof/Machine/Jump16.lean ====
section
/-! DEFINITION. The 16-bit unconditional jumps (44_jump16.md R160 to R164). -/

namespace Sys2Proof.Machine

/-- `jalr rs` (R160): the target is read before `ra` is written, so `jalr ra` jumps to the old `ra`. -/
def execJalr (rs : Reg) (s : State) : Res State := linkAndJump (s.pc + 2#16) (s.reg rs) s

/-- `jr rs` (R161). -/
def execJr (rs : Reg) (s : State) : Res State := jumpTo (s.reg rs) s

/-- `js simm11` (R162). -/
def execJs (simm11 : BitVec 11) (s : State) : Res State := jumpTo (s.pc + sext simm11) s

/-- `jsal simm11` (R163). -/
def execJsal (simm11 : BitVec 11) (s : State) : Res State :=
  linkAndJump (s.pc + 2#16) (s.pc + sext simm11) s

end Sys2Proof.Machine
end

