-- ==== Sys2Proof/Machine/Mem16.lean ====
section
/-! DEFINITION. The 16-bit stack-relative load and store (45_mem16.md R170 to R172). -/

namespace Sys2Proof.Machine

/-- `lwsp rd, uimm7(sp)` (R170). -/
def execLwsp (rd : Reg) (uimm7 : BitVec 7) (s : State) : Res State :=
  loadWord 2#16 rd (s.eaSp uimm7) s

/-- `swsp rs, uimm7(sp)` (R171). -/
def execSwsp (rs : Reg) (uimm7 : BitVec 7) (s : State) : Res State :=
  storeWord 2#16 (s.eaSp uimm7) (s.reg rs) s

end Sys2Proof.Machine
end

