-- ==== Sys2Proof/Machine/Mem24.lean ====
section
/-! DEFINITION. The 24-bit loads and stores (42_mem24.md R130 to R135). -/

namespace Sys2Proof.Machine

/-- `lw rd, simm10(rs)` (R131). -/
def execLw (data base : Reg) (simm10 : BitVec 10) (s : State) : Res State :=
  loadWord 3#16 data (s.ea base simm10) s

/-- `lb rd, simm10(rs)` (R132): the byte sign-extended. -/
def execLb (data base : Reg) (simm10 : BitVec 10) (s : State) : Res State :=
  loadByte 3#16 sext data (s.ea base simm10) s

/-- `lbu rd, simm10(rs)` (R133): the byte zero-extended. -/
def execLbu (data base : Reg) (simm10 : BitVec 10) (s : State) : Res State :=
  loadByte 3#16 zext data (s.ea base simm10) s

/-- `sw rs, simm10(rd)` (R134). -/
def execSw (data base : Reg) (simm10 : BitVec 10) (s : State) : Res State :=
  storeWord 3#16 (s.ea base simm10) (s.reg data) s

/-- `sb rs, simm10(rd)` (R135): bits 7:0 of the data register. -/
def execSb (data base : Reg) (simm10 : BitVec 10) (s : State) : Res State :=
  storeByte 3#16 (s.ea base simm10) ((s.reg data).extractLsb' 0 8) s

end Sys2Proof.Machine
end

