-- ==== Sys2Proof/Machine/Other.lean ====
section
/-! DEFINITION. `nop` (46_other.md R175). There is no system, floating point, vector, multiply or divide instruction
(R176 to R179). -/

namespace Sys2Proof.Machine

/-- `nop` (R175): the advance and nothing else. -/
def execNop (s : State) : Res State := .next (s.advance 2#16)

end Sys2Proof.Machine
end

