-- ==== Sys2Proof/Syntax.lean ====
section
/-! DEFINITION. The 52 instructions of spec/opcode_table.json, one constructor per row in the table's order. An
operand holds exactly the values its field can hold: a register number (R52), a `simmN` or `uimmN` field (R6). -/

namespace Sys2Proof

inductive Instr where
  -- 24-bit register-register, format R24 (40_int24.md R100 to R107)
  | add (rd rs1 rs2 : Reg)
  | sub (rd rs1 rs2 : Reg)
  | and (rd rs1 rs2 : Reg)
  | xor (rd rs1 rs2 : Reg)
  | or (rd rs1 rs2 : Reg)
  | lsl (rd rs1 rs2 : Reg)
  | lsr (rd rs1 rs2 : Reg)
  | asr (rd rs1 rs2 : Reg)
  -- 24-bit register-immediate, formats I24 and LI24 (R108 to R112)
  | addi (rd rs1 : Reg) (simm10 : BitVec 10)
  | andi (rd rs1 : Reg) (simm10 : BitVec 10)
  | xori (rd rs1 : Reg) (simm10 : BitVec 10)
  | ori (rd rs1 : Reg) (simm10 : BitVec 10)
  | li (rd : Reg) (simm10 : BitVec 10)
  -- 24-bit shift by immediate, format SH24 (R113 to R115)
  | lsli (rd rs1 : Reg) (uimm4 : BitVec 4)
  | lsri (rd rs1 : Reg) (uimm4 : BitVec 4)
  | asri (rd rs1 : Reg) (uimm4 : BitVec 4)
  -- 24-bit conditional branches, format B24 (41_branch24.md R120 to R126)
  | beq (rs1 rs2 : Reg) (simm10 : BitVec 10)
  | bne (rs1 rs2 : Reg) (simm10 : BitVec 10)
  | blt (rs1 rs2 : Reg) (simm10 : BitVec 10)
  | bltu (rs1 rs2 : Reg) (simm10 : BitVec 10)
  | ble (rs1 rs2 : Reg) (simm10 : BitVec 10)
  | bleu (rs1 rs2 : Reg) (simm10 : BitVec 10)
  -- the list-only 24-bit jumps, format J24 (R127 to R129)
  | j (simm16 : BitVec 16)
  | jal (simm16 : BitVec 16)
  -- 24-bit loads and stores, formats L24 and S24 (42_mem24.md R130 to R135)
  | lw (data base : Reg) (simm10 : BitVec 10)
  | lb (data base : Reg) (simm10 : BitVec 10)
  | lbu (data base : Reg) (simm10 : BitVec 10)
  | sw (data base : Reg) (simm10 : BitVec 10)
  | sb (data base : Reg) (simm10 : BitVec 10)
  -- 16-bit register-register, format R16 (43_int16.md R140 to R148)
  | mov (rd rs : Reg)
  | add2 (rd rs : Reg)
  | sub2 (rd rs : Reg)
  | and2 (rd rs : Reg)
  | xor2 (rd rs : Reg)
  | or2 (rd rs : Reg)
  | lsl2 (rd rs : Reg)
  | lsr2 (rd rs : Reg)
  | asr2 (rd rs : Reg)
  -- 16-bit register-immediate, format I16 (R149 to R152)
  | addi2 (rd : Reg) (simm6 : BitVec 6)
  | andi2 (rd : Reg) (simm6 : BitVec 6)
  | lsi (rd : Reg) (simm6 : BitVec 6)
  | lui (rd : Reg) (simm6 : BitVec 6)
  -- 16-bit shift by immediate, format SH16 (R153 to R155)
  | lsli2 (rd : Reg) (uimm4 : BitVec 4)
  | lsri2 (rd : Reg) (uimm4 : BitVec 4)
  | asri2 (rd : Reg) (uimm4 : BitVec 4)
  -- 16-bit jumps, formats JR16 and JS16 (44_jump16.md R160 to R163)
  | jalr (rs : Reg)
  | jr (rs : Reg)
  | js (simm11 : BitVec 11)
  | jsal (simm11 : BitVec 11)
  -- 16-bit stack access, formats LSP16 and SSP16 (45_mem16.md R170, R171); `uimm7` is even (R72)
  | lwsp (rd : Reg) (uimm7 : BitVec 7)
  | swsp (rs : Reg) (uimm7 : BitVec 7)
  -- format N16 (46_other.md R175)
  | nop
deriving DecidableEq, Repr

end Sys2Proof
end

