-- ==== Sys2Proof/WellFormed.lean ====
section
/-! DEFINITION. Which instructions have an encoding. The operand types already hold every field's range (R83); two
checks remain on the operands, and three on what the launch admits. -/

namespace Sys2Proof

/-- The operands have an encoding: `sb` cannot name x0 as its base (R76, R135), and bit 0 of `uimm7` is not stored
and is 0 (R72). -/
def Instr.operandsOk : Instr → Bool
  | .sb _ base _ => base != 0
  | .lwsp _ uimm7 => !uimm7[0]
  | .swsp _ uimm7 => !uimm7[0]
  | .add .. | .sub .. | .and .. | .xor .. | .or .. | .lsl .. | .lsr .. | .asr .. => true
  | .addi .. | .andi .. | .xori .. | .ori .. | .li .. | .lsli .. | .lsri .. | .asri .. => true
  | .beq .. | .bne .. | .blt .. | .bltu .. | .ble .. | .bleu .. | .j .. | .jal .. => true
  | .lw .. | .lb .. | .lbu .. | .sw .. => true
  | .mov .. | .add2 .. | .sub2 .. | .and2 .. | .xor2 .. | .or2 .. | .lsl2 .. | .lsr2 .. | .asr2 .. => true
  | .addi2 .. | .andi2 .. | .lsi .. | .lui .. | .lsli2 .. | .lsri2 .. | .asri2 .. => true
  | .jalr .. | .jr .. | .js .. | .jsal .. | .nop => true

/-- The launch's parameters admit the instruction (R76, R77, R129). -/
def Instr.admitted (p : Params) : Instr → Bool
  | .sb .. => p.sbAdmitted
  | .j .. => p.j24 == .j
  | .jal .. => p.j24 == .jal
  | .add .. | .sub .. | .and .. | .xor .. | .or .. | .lsl .. | .lsr .. | .asr .. => true
  | .addi .. | .andi .. | .xori .. | .ori .. | .li .. | .lsli .. | .lsri .. | .asri .. => true
  | .beq .. | .bne .. | .blt .. | .bltu .. | .ble .. | .bleu .. => true
  | .lw .. | .lb .. | .lbu .. | .sw .. => true
  | .mov .. | .add2 .. | .sub2 .. | .and2 .. | .xor2 .. | .or2 .. | .lsl2 .. | .lsr2 .. | .asr2 .. => true
  | .addi2 .. | .andi2 .. | .lsi .. | .lui .. | .lsli2 .. | .lsri2 .. | .asri2 .. => true
  | .jalr .. | .jr .. | .js .. | .jsal .. | .lwsp .. | .swsp .. | .nop => true

/-- The instruction has an encoding that the launch's parameters decode. -/
def Instr.wellFormed (p : Params) (i : Instr) : Bool :=
  i.operandsOk && i.admitted p

end Sys2Proof
end

