-- ==== Sys2Proof/Decode.lean ====
section
/-! DEFINITION. The decoder, total on any bytes (30_encoding.md R50 to R82), and after it the encoder, written from
the same format tables. -/

namespace Sys2Proof

/-! ## Fields and immediates -/

/-- The register number in bits `lo + 3 : lo` (R52). -/
def regField {n : Nat} (w : BitVec n) (lo : Nat) : Reg := (w.extractLsb' lo 4).toFin

/-- `simm10`: high two bits in insn[7:6], low eight in insn[23:16] (R68). -/
def simm10Field (w : BitVec 24) : BitVec 10 := w.extractLsb' 6 2 ++ w.extractLsb' 16 8

/-- `simm6`: high two bits in insn[7:6], low four in insn[15:12] (R69). -/
def simm6Field (w : BitVec 16) : BitVec 6 := w.extractLsb' 6 2 ++ w.extractLsb' 12 4

/-- `simm11`: insn[15:5] (R70). -/
def simm11Field (w : BitVec 16) : BitVec 11 := w.extractLsb' 5 11

/-- `uimm7`: insn[7:6], then insn[15:12], then a 0 that is not stored (R72). -/
def uimm7Field (w : BitVec 16) : BitVec 7 := (w.extractLsb' 6 2 ++ w.extractLsb' 12 4) ++ 0#1

/-- `simm16`: insn[23:8] (R73). -/
def simm16Field (w : BitVec 24) : BitVec 16 := w.extractLsb' 8 16

/-! ## The formats; `none` is a reserved word (R80, R81) -/

/-- Format R24 (R53): insn[23:20] and insn[7:6] are 0. -/
def formatR24 (w : BitVec 24) (mk : Reg → Reg → Reg → Instr) : Option Instr :=
  if w.extractLsb' 20 4 = 0#4 ∧ w.extractLsb' 6 2 = 0#2 then
    some (mk (regField w 8) (regField w 12) (regField w 16))
  else none

/-- Format I24 (R54), and with it L24 and S24 (R58, R59): the register in insn[11:8], the one in insn[15:12], and
`simm10`. -/
def formatI24 (w : BitVec 24) (mk : Reg → Reg → BitVec 10 → Instr) : Option Instr :=
  some (mk (regField w 8) (regField w 12) (simm10Field w))

/-- Format SH24 (R56, R71): insn[23:20] and insn[7:6] are 0. -/
def formatSH24 (w : BitVec 24) (mk : Reg → Reg → BitVec 4 → Instr) : Option Instr :=
  if w.extractLsb' 20 4 = 0#4 ∧ w.extractLsb' 6 2 = 0#2 then
    some (mk (regField w 8) (regField w 12) (w.extractLsb' 16 4))
  else none

/-- Format B24 (R57): `rs1` in insn[15:12], `rs2` in insn[11:8]. -/
def formatB24 (w : BitVec 24) (mk : Reg → Reg → BitVec 10 → Instr) : Option Instr :=
  some (mk (regField w 12) (regField w 8) (simm10Field w))

/-- Formats LI24 and S24 share one opcode (R55, R59, R76): insn[15:12] = 0 is `li`, else `sb` where it is
admitted. -/
def formatLiSb (p : Params) (w : BitVec 24) : Option Instr :=
  if w.extractLsb' 12 4 = 0#4 then some (.li (regField w 8) (simm10Field w))
  else if p.sbAdmitted then some (.sb (regField w 8) (regField w 12) (simm10Field w))
  else none

/-- Format J24 (R60, R77, R129): insn[7:6] is 0, and the launch says what the word means. -/
def formatJ24 (p : Params) (w : BitVec 24) : Option Instr :=
  if w.extractLsb' 6 2 = 0#2 then
    match p.j24 with
    | .notAdmitted => none
    | .j => some (.j (simm16Field w))
    | .jal => some (.jal (simm16Field w))
  else none

/-- Format R16 (R61): `rd` in insn[11:8], `rs` in insn[15:12], insn[7:6] = 10. -/
def formatR16 (w : BitVec 16) (mk : Reg → Reg → Instr) : Option Instr :=
  if w.extractLsb' 6 2 = 2#2 then some (mk (regField w 8) (regField w 12)) else none

/-- The words with insn[5:0] = 000000: `add2`, `mov` (R61) and `nop` (R67). -/
def formatZero16 (w : BitVec 16) : Option Instr :=
  if w = 0#16 then some .nop
  else if w.extractLsb' 6 2 = 2#2 then some (.add2 (regField w 8) (regField w 12))
  else if w.extractLsb' 6 2 = 3#2 then some (.mov (regField w 8) (regField w 12))
  else none

/-- Format I16 (R62, R69). -/
def formatI16 (w : BitVec 16) (mk : Reg → BitVec 6 → Instr) : Option Instr :=
  some (mk (regField w 8) (simm6Field w))

/-- Format SH16 (R63, R71): insn[7:6] = 00. -/
def formatSH16 (w : BitVec 16) (mk : Reg → BitVec 4 → Instr) : Option Instr :=
  if w.extractLsb' 6 2 = 0#2 then some (mk (regField w 8) (w.extractLsb' 12 4)) else none

/-- Format JR16 (R64): insn[15:12] = 0000 and insn[7:6] = 00. -/
def formatJR16 (w : BitVec 16) (mk : Reg → Instr) : Option Instr :=
  if w.extractLsb' 12 4 = 0#4 ∧ w.extractLsb' 6 2 = 0#2 then some (mk (regField w 8)) else none

/-- Formats LSP16 and SSP16 (R66, R72). -/
def formatSP16 (w : BitVec 16) (mk : Reg → BitVec 7 → Instr) : Option Instr :=
  some (mk (regField w 8) (uimm7Field w))

/-! ## The opcode map -/

/-- A 24-bit word (R74, R76, R77, arranged by insn[5:0] as R78 arranges them); `none`: reserved (R80). -/
def decode24 (p : Params) (w : BitVec 24) : Option Instr :=
  match w.extractLsb' 0 6 with
  | 0b000001#6 => formatR24 w .add
  | 0b001001#6 => formatR24 w .sub
  | 0b010001#6 => formatR24 w .and
  | 0b011001#6 => formatR24 w .xor
  | 0b100001#6 => formatR24 w .or
  | 0b101001#6 => formatR24 w .lsl
  | 0b110001#6 => formatR24 w .lsr
  | 0b111001#6 => formatR24 w .asr
  | 0b000011#6 => formatI24 w .addi
  | 0b010011#6 => formatI24 w .andi
  | 0b011011#6 => formatI24 w .xori
  | 0b100011#6 => formatI24 w .ori
  | 0b101011#6 => formatSH24 w .lsli
  | 0b110011#6 => formatSH24 w .lsri
  | 0b111011#6 => formatSH24 w .asri
  | 0b000101#6 => formatI24 w .lbu
  | 0b001101#6 => formatI24 w .sw
  | 0b010101#6 => formatI24 w .lw
  | 0b100101#6 => formatI24 w .lb
  | 0b110101#6 => formatLiSb p w
  | 0b000111#6 => formatJ24 p w
  | 0b001111#6 => formatB24 w .beq
  | 0b010111#6 => formatB24 w .bltu
  | 0b011111#6 => formatB24 w .bleu
  | 0b101111#6 => formatB24 w .bne
  | 0b110111#6 => formatB24 w .blt
  | 0b111111#6 => formatB24 w .ble
  | _ => none

/-- A 16-bit word (R75, arranged by insn[5:0] as R78 arranges them); `none`: reserved (R80). -/
def decode16 (w : BitVec 16) : Option Instr :=
  match w.extractLsb' 0 6 with
  | 0b000000#6 => formatZero16 w
  | 0b001000#6 => formatR16 w .sub2
  | 0b010000#6 => formatR16 w .and2
  | 0b011000#6 => formatR16 w .xor2
  | 0b100000#6 => formatR16 w .or2
  | 0b101000#6 => formatR16 w .lsl2
  | 0b110000#6 => formatR16 w .lsr2
  | 0b111000#6 => formatR16 w .asr2
  | 0b000010#6 => formatI16 w .addi2
  | 0b010010#6 => formatI16 w .andi2
  | 0b101010#6 => formatSH16 w .lsli2
  | 0b110010#6 => formatSH16 w .lsri2
  | 0b111010#6 => formatSH16 w .asri2
  | 0b000100#6 => formatI16 w .lui
  | 0b110100#6 => formatI16 w .lsi
  | 0b010100#6 => formatSP16 w .lwsp
  | 0b011100#6 => formatSP16 w .swsp
  | 0b000110#6 => formatJR16 w .jr
  | 0b010110#6 => formatJR16 w .jalr
  | 0b001110#6 | 0b101110#6 => some (.js (simm11Field w))
  | 0b011110#6 | 0b111110#6 => some (.jsal (simm11Field w))
  | _ => none

/-- Why bytes are no instruction. -/
inductive Reject where
  /-- The bytes end before the instruction does (R50, R51). -/
  | needsMoreBytes
  /-- A reserved word (R80, R81), a 16-bit one with zeros above it. -/
  | reserved (insn : BitVec 24)
deriving DecidableEq, Repr

/-- The 24-bit word whose bytes, in ascending address order, are `b0 b1 b2` (R33). -/
def word24 (b0 b1 b2 : Byte) : BitVec 24 := (b2 ++ b1) ++ b0

/-- The 16-bit word whose bytes, in ascending address order, are `b0 b1` (R33). -/
def word16 (b0 b1 : Byte) : BitVec 16 := b1 ++ b0

/-- The instruction the bytes begin with and the bytes after it. Bit 0 of the first byte tells the length (R51). -/
def decode (p : Params) : List Byte → Except Reject (Instr × List Byte)
  | b0 :: b1 :: rest =>
    if b0[0] then
      match rest with
      | [] => .error .needsMoreBytes
      | b2 :: rest =>
        match decode24 p (word24 b0 b1 b2) with
        | some i => .ok (i, rest)
        | none => .error (.reserved (word24 b0 b1 b2))
    else
      match decode16 (word16 b0 b1) with
      | some i => .ok (i, rest)
      | none => .error (.reserved ((word16 b0 b1).setWidth 24))
  | _ => .error .needsMoreBytes

/-- The bytes of an instruction whose bits are `w`, as spec/opcode_table.json numbers them: the `nbits` bits the
table gives, every bit above them 0, three bytes in all (the longest instruction), lowest address first (R33). -/
def tableWordBytes (nbits w : Nat) : List Byte :=
  let v := w % 2 ^ nbits
  [BitVec.ofNat 8 v, BitVec.ofNat 8 (v / 2 ^ 8), BitVec.ofNat 8 (v / 2 ^ 16)]

/-- The instruction the decoder reads from a table word, under the parameters that `State.reset` has. -/
def decodeTableWord (nbits w : Nat) : Option Instr :=
  match decode Params.atReset (tableWordBytes nbits w) with
  | .ok (i, _) => some i
  | .error _ => none

/-! ## The encoder -/

/-- The four bits of a register field (R52). -/
def regBits (r : Reg) : BitVec 4 := BitVec.ofFin r

/-- The bytes of a 24-bit word, lowest address first (R33). -/
def bytes24 (w : BitVec 24) : List Byte := [w.extractLsb' 0 8, w.extractLsb' 8 8, w.extractLsb' 16 8]

/-- The bytes of a 16-bit word, lowest address first (R33). -/
def bytes16 (w : BitVec 16) : List Byte := [w.extractLsb' 0 8, w.extractLsb' 8 8]

/-- Format R24 (R53). -/
def encodeR24 (op : BitVec 8) (rd rs1 rs2 : Reg) : List Byte :=
  bytes24 ((((0#4 ++ regBits rs2) ++ regBits rs1) ++ regBits rd) ++ op)

/-- Format SH24 (R56). -/
def encodeSH24 (op : BitVec 8) (rd rs1 : Reg) (uimm4 : BitVec 4) : List Byte :=
  bytes24 ((((0#4 ++ uimm4) ++ regBits rs1) ++ regBits rd) ++ op)

/-- Formats I24, LI24, B24, L24 and S24 (R54, R55, R57, R58, R59): the register in insn[15:12], the one in
insn[11:8], and `simm10` (R68). -/
def encodeI24 (op : BitVec 6) (at12 at8 : Reg) (simm10 : BitVec 10) : List Byte :=
  bytes24 ((((simm10.extractLsb' 0 8 ++ regBits at12) ++ regBits at8) ++ simm10.extractLsb' 8 2) ++ op)

/-- Format J24 (R60). -/
def encodeJ24 (op : BitVec 6) (simm16 : BitVec 16) : List Byte := bytes24 ((simm16 ++ 0#2) ++ op)

/-- Format R16 (R61). -/
def encodeR16 (op : BitVec 8) (rd rs : Reg) : List Byte := bytes16 ((regBits rs ++ regBits rd) ++ op)

/-- Format I16 (R62, R69). -/
def encodeI16 (op : BitVec 6) (rd : Reg) (simm6 : BitVec 6) : List Byte :=
  bytes16 (((simm6.extractLsb' 0 4 ++ regBits rd) ++ simm6.extractLsb' 4 2) ++ op)

/-- Format SH16 (R63). -/
def encodeSH16 (op : BitVec 8) (rd : Reg) (uimm4 : BitVec 4) : List Byte :=
  bytes16 ((uimm4 ++ regBits rd) ++ op)

/-- Format JR16 (R64). -/
def encodeJR16 (op : BitVec 8) (rs : Reg) : List Byte := bytes16 ((0#4 ++ regBits rs) ++ op)

/-- Format JS16 (R65). -/
def encodeJS16 (op : BitVec 5) (simm11 : BitVec 11) : List Byte := bytes16 (simm11 ++ op)

/-- Formats LSP16 and SSP16 (R66, R72). -/
def encodeSP16 (op : BitVec 6) (r : Reg) (uimm7 : BitVec 7) : List Byte :=
  bytes16 (((uimm7.extractLsb' 1 4 ++ regBits r) ++ uimm7.extractLsb' 5 2) ++ op)

/-- The bytes of a well-formed instruction, lowest address first: the opcodes as R74 and R75 print them. -/
def encode : Instr → List Byte
  | .add rd rs1 rs2 => encodeR24 0b00000001#8 rd rs1 rs2
  | .sub rd rs1 rs2 => encodeR24 0b00001001#8 rd rs1 rs2
  | .and rd rs1 rs2 => encodeR24 0b00010001#8 rd rs1 rs2
  | .xor rd rs1 rs2 => encodeR24 0b00011001#8 rd rs1 rs2
  | .or rd rs1 rs2 => encodeR24 0b00100001#8 rd rs1 rs2
  | .lsl rd rs1 rs2 => encodeR24 0b00101001#8 rd rs1 rs2
  | .lsr rd rs1 rs2 => encodeR24 0b00110001#8 rd rs1 rs2
  | .asr rd rs1 rs2 => encodeR24 0b00111001#8 rd rs1 rs2
  | .addi rd rs1 imm => encodeI24 0b000011#6 rs1 rd imm
  | .andi rd rs1 imm => encodeI24 0b010011#6 rs1 rd imm
  | .xori rd rs1 imm => encodeI24 0b011011#6 rs1 rd imm
  | .ori rd rs1 imm => encodeI24 0b100011#6 rs1 rd imm
  | .li rd imm => encodeI24 0b110101#6 0 rd imm
  | .lsli rd rs1 n => encodeSH24 0b00101011#8 rd rs1 n
  | .lsri rd rs1 n => encodeSH24 0b00110011#8 rd rs1 n
  | .asri rd rs1 n => encodeSH24 0b00111011#8 rd rs1 n
  | .beq rs1 rs2 imm => encodeI24 0b001111#6 rs1 rs2 imm
  | .bne rs1 rs2 imm => encodeI24 0b101111#6 rs1 rs2 imm
  | .blt rs1 rs2 imm => encodeI24 0b110111#6 rs1 rs2 imm
  | .bltu rs1 rs2 imm => encodeI24 0b010111#6 rs1 rs2 imm
  | .ble rs1 rs2 imm => encodeI24 0b111111#6 rs1 rs2 imm
  | .bleu rs1 rs2 imm => encodeI24 0b011111#6 rs1 rs2 imm
  | .j imm => encodeJ24 0b000111#6 imm
  | .jal imm => encodeJ24 0b000111#6 imm
  | .lw data base imm => encodeI24 0b010101#6 base data imm
  | .lb data base imm => encodeI24 0b100101#6 base data imm
  | .lbu data base imm => encodeI24 0b000101#6 base data imm
  | .sw data base imm => encodeI24 0b001101#6 base data imm
  | .sb data base imm => encodeI24 0b110101#6 base data imm
  | .mov rd rs => encodeR16 0b11000000#8 rd rs
  | .add2 rd rs => encodeR16 0b10000000#8 rd rs
  | .sub2 rd rs => encodeR16 0b10001000#8 rd rs
  | .and2 rd rs => encodeR16 0b10010000#8 rd rs
  | .xor2 rd rs => encodeR16 0b10011000#8 rd rs
  | .or2 rd rs => encodeR16 0b10100000#8 rd rs
  | .lsl2 rd rs => encodeR16 0b10101000#8 rd rs
  | .lsr2 rd rs => encodeR16 0b10110000#8 rd rs
  | .asr2 rd rs => encodeR16 0b10111000#8 rd rs
  | .addi2 rd imm => encodeI16 0b000010#6 rd imm
  | .andi2 rd imm => encodeI16 0b010010#6 rd imm
  | .lsi rd imm => encodeI16 0b110100#6 rd imm
  | .lui rd imm => encodeI16 0b000100#6 rd imm
  | .lsli2 rd n => encodeSH16 0b00101010#8 rd n
  | .lsri2 rd n => encodeSH16 0b00110010#8 rd n
  | .asri2 rd n => encodeSH16 0b00111010#8 rd n
  | .jalr rs => encodeJR16 0b00010110#8 rs
  | .jr rs => encodeJR16 0b00000110#8 rs
  | .js imm => encodeJS16 0b01110#5 imm
  | .jsal imm => encodeJS16 0b11110#5 imm
  | .lwsp rd imm => encodeSP16 0b010100#6 rd imm
  | .swsp rs imm => encodeSP16 0b011100#6 rs imm
  | .nop => bytes16 0#16

end Sys2Proof
end

