-- ==== Sys2Proof/Machine/Fetch.lean ====
section
/-! DEFINITION. Fetching an instruction's bytes (20_memory.md R38, R33; 30_encoding.md R51), and the placing of an
instruction where the step fetches it. -/

namespace Sys2Proof.Machine

/-- One byte of the instruction at pc, from IMem inside IMEM_RANGE (R38). -/
def State.fetchByte (s : State) (a : Word) : Res Byte :=
  if s.inCode a.toNat then
    match Memory.read s.imem a.toNat with
    | some b => .next b
    | none => .fault (.fetchFault a)
  else .fault (.fetchFault a)

/-- `Fetch(pc)`, as the instruction's bytes in ascending address order: three where bit 0 of the first is 1, two
else (R38, R51); addresses wrap (R18). -/
def State.fetch (s : State) : Res (List Byte) :=
  andThen (s.fetchByte s.pc) fun b0 =>
    andThen (s.fetchByte (s.pc + 1#16)) fun b1 =>
      if b0[0] then
        andThen (s.fetchByte (s.pc + 2#16)) fun b2 => .next [b0, b1, b2]
      else .next [b0, b1]

/-- The word a list of fetched bytes spells, the first byte in bits 7:0 (R33), zeros above it. -/
def insnOfBytes : List Byte → BitVec 24
  | [] => 0#24
  | b :: bs => (insnOfBytes bs <<< 8) ||| b.setWidth 24

/-- An IMEM_RANGE that holds `pc`, `pc + 1` and `pc + 2`: the one there is if it does, else those three addresses, or
every address where they wrap. -/
def rangeForFetch (r : AddrRange) (pc : Word) : AddrRange :=
  if rangeHas r pc.toNat && rangeHas r (pc + 1#16).toNat && rangeHas r (pc + 2#16).toNat then r
  else if pc.toNat + 3 ≤ 65536 then ⟨pc.toNat, 3⟩
  else ⟨0, 65536⟩

/-- The state with three bytes placed in the image at pc: the part of a launch (R203) that a single instruction
takes (log 4). -/
def State.withFetchBytes (s : State) (bs : List Byte) : State :=
  { s with
    imem := Memory.writeAll s.imem s.pc.toNat bs
    imemRange := rangeForFetch s.imemRange s.pc }

end Sys2Proof.Machine
end

