-- ==== Sys2Proof/Machine/Step.lean ====
section
/-! DEFINITION. One step of the machine: fetch, decode, execute (70_reset_and_hazards.md R205). -/

namespace Sys2Proof.Machine

/-- `step(state)` (R205): a reserved word is `IllegalInstruction(pc, insn)` (R80). -/
def step (s : State) : Host.Outcome State Fault Refusal :=
  andThen s.fetch fun bytes =>
    match decode s.params bytes with
    | .ok (i, _) => exec i s
    | .error _ => .fault (.illegalInstruction s.pc (insnOfBytes bytes))

/-- The state with the instruction whose table bits are `w` in the image at pc, where the step fetches. -/
def State.withFetchWord (s : State) (nbits w : Nat) : State :=
  s.withFetchBytes (tableWordBytes nbits w)

end Sys2Proof.Machine
end

