-- ==== Sys2Proof/Machine/Assembler.lean ====
section
/-! DEFINITION. The assembler's syntax (30_encoding.md R83, D22), both ways, and the ranges of its operands (R68 to
R73). There are no pseudo-instructions (R84). -/

namespace Sys2Proof.Machine

/-- The ABI name of a register (10_state.md R10). -/
def regName (r : Reg) : String :=
  (["ra", "sp", "fp", "s0", "s1", "s2", "s3", "s4", "a0", "a1", "a2", "a3", "a4", "a5", "t0", "t1"][r.val]?).getD ""

/-- The field of a `simmN` operand, if the number has one (R68 to R70, R83). -/
def simmField (n : Nat) (v : Int) : Option (BitVec n) :=
  if -(2 ^ (n - 1) : Int) ≤ v ∧ v < 2 ^ (n - 1) then some (BitVec.ofInt n v) else none

/-- The field of a `uimmN` operand, if the number has one (R71, R83). -/
def uimmField (n : Nat) (v : Int) : Option (BitVec n) :=
  if 0 ≤ v ∧ v < 2 ^ n then some (BitVec.ofInt n v) else none

/-- The `uimm7` of `lwsp` and `swsp`: even (R72, R83). -/
def evenUimm7Field (v : Int) : Option (BitVec 7) :=
  if v % 2 = 0 then uimmField 7 v else none

/-- The offset field of a branch or jump written with a label: the label's address less the instruction's own
(R83, D22). R83 does not say whether that difference wraps modulo 65536: here it is the difference of the two addresses
as integers, so that a label beyond the 0xFFFF to 0x0000 wrap has no field (DESIGN CHOICE, log 26). -/
def labelField (n : Nat) (label here : Word) : Option (BitVec n) :=
  simmField n ((label.toNat : Int) - (here.toNat : Int))

/-- `op a, b, c` (R83). -/
def text3 (op a b c : String) : String := op ++ " " ++ a ++ ", " ++ b ++ ", " ++ c

/-- `op a, b` (R83). -/
def text2 (op a b : String) : String := op ++ " " ++ a ++ ", " ++ b

/-- `op r, offset(base)` (R83). -/
def textAt (op r offset base : String) : String := op ++ " " ++ r ++ ", " ++ offset ++ "(" ++ base ++ ")"

/-- A signed immediate in decimal. -/
def simmText {n : Nat} (v : BitVec n) : String := toString v.toInt

/-- An unsigned immediate in decimal. -/
def uimmText {n : Nat} (v : BitVec n) : String := toString v.toNat

/-- The instruction in R83's syntax: lower case, ABI register names (log 26). -/
def render : Instr → String
  | .add rd rs1 rs2 => text3 "add" (regName rd) (regName rs1) (regName rs2)
  | .sub rd rs1 rs2 => text3 "sub" (regName rd) (regName rs1) (regName rs2)
  | .and rd rs1 rs2 => text3 "and" (regName rd) (regName rs1) (regName rs2)
  | .xor rd rs1 rs2 => text3 "xor" (regName rd) (regName rs1) (regName rs2)
  | .or rd rs1 rs2 => text3 "or" (regName rd) (regName rs1) (regName rs2)
  | .lsl rd rs1 rs2 => text3 "lsl" (regName rd) (regName rs1) (regName rs2)
  | .lsr rd rs1 rs2 => text3 "lsr" (regName rd) (regName rs1) (regName rs2)
  | .asr rd rs1 rs2 => text3 "asr" (regName rd) (regName rs1) (regName rs2)
  | .addi rd rs1 i => text3 "addi" (regName rd) (regName rs1) (simmText i)
  | .andi rd rs1 i => text3 "andi" (regName rd) (regName rs1) (simmText i)
  | .xori rd rs1 i => text3 "xori" (regName rd) (regName rs1) (simmText i)
  | .ori rd rs1 i => text3 "ori" (regName rd) (regName rs1) (simmText i)
  | .li rd i => text2 "li" (regName rd) (simmText i)
  | .lsli rd rs1 n => text3 "lsli" (regName rd) (regName rs1) (uimmText n)
  | .lsri rd rs1 n => text3 "lsri" (regName rd) (regName rs1) (uimmText n)
  | .asri rd rs1 n => text3 "asri" (regName rd) (regName rs1) (uimmText n)
  | .beq rs1 rs2 i => text3 "beq" (regName rs1) (regName rs2) (simmText i)
  | .bne rs1 rs2 i => text3 "bne" (regName rs1) (regName rs2) (simmText i)
  | .blt rs1 rs2 i => text3 "blt" (regName rs1) (regName rs2) (simmText i)
  | .bltu rs1 rs2 i => text3 "bltu" (regName rs1) (regName rs2) (simmText i)
  | .ble rs1 rs2 i => text3 "ble" (regName rs1) (regName rs2) (simmText i)
  | .bleu rs1 rs2 i => text3 "bleu" (regName rs1) (regName rs2) (simmText i)
  | .j i => "j " ++ simmText i
  | .jal i => "jal " ++ simmText i
  | .lw data base i => textAt "lw" (regName data) (simmText i) (regName base)
  | .lb data base i => textAt "lb" (regName data) (simmText i) (regName base)
  | .lbu data base i => textAt "lbu" (regName data) (simmText i) (regName base)
  | .sw data base i => textAt "sw" (regName data) (simmText i) (regName base)
  | .sb data base i => textAt "sb" (regName data) (simmText i) (regName base)
  | .mov rd rs => text2 "mov" (regName rd) (regName rs)
  | .add2 rd rs => text2 "add2" (regName rd) (regName rs)
  | .sub2 rd rs => text2 "sub2" (regName rd) (regName rs)
  | .and2 rd rs => text2 "and2" (regName rd) (regName rs)
  | .xor2 rd rs => text2 "xor2" (regName rd) (regName rs)
  | .or2 rd rs => text2 "or2" (regName rd) (regName rs)
  | .lsl2 rd rs => text2 "lsl2" (regName rd) (regName rs)
  | .lsr2 rd rs => text2 "lsr2" (regName rd) (regName rs)
  | .asr2 rd rs => text2 "asr2" (regName rd) (regName rs)
  | .addi2 rd i => text2 "addi2" (regName rd) (simmText i)
  | .andi2 rd i => text2 "andi2" (regName rd) (simmText i)
  | .lsi rd i => text2 "lsi" (regName rd) (simmText i)
  | .lui rd i => text2 "lui" (regName rd) (simmText i)
  | .lsli2 rd n => text2 "lsli2" (regName rd) (uimmText n)
  | .lsri2 rd n => text2 "lsri2" (regName rd) (uimmText n)
  | .asri2 rd n => text2 "asri2" (regName rd) (uimmText n)
  | .jalr rs => "jalr " ++ regName rs
  | .jr rs => "jr " ++ regName rs
  | .js i => "js " ++ simmText i
  | .jsal i => "jsal " ++ simmText i
  | .lwsp rd i => textAt "lwsp" (regName rd) (uimmText i) "sp"
  | .swsp rs i => textAt "swsp" (regName rs) (uimmText i) "sp"
  | .nop => "nop"

/-! ## From text to instruction, token by token -/

/-- An operand as it is written (R83): a register by its number or its ABI name, an immediate, an offset with a base
in parentheses. -/
inductive Operand where
  | reg (name : String)
  | imm (v : Int)
  | mem (offset : Int) (base : String)
deriving DecidableEq, Repr

/-- The register a name names: `x0` to `x15`, or the ABI name (R10, R83). -/
def regNamed (name : String) : Option Reg :=
  (List.finRange 16).find? fun r => name == regName r || name == "x" ++ toString r.val

/-- `op rd, rs1, rs2` (R83). -/
def asmRRR (mk : Reg → Reg → Reg → Instr) : List Operand → Option Instr
  | [.reg a, .reg b, .reg c] =>
    (regNamed a).bind fun a => (regNamed b).bind fun b => (regNamed c).map fun c => mk a b c
  | _ => none

/-- `op r, q, imm`, the immediate's field as `field` finds it (R83). -/
def asmRRI {n : Nat} (field : Int → Option (BitVec n)) (mk : Reg → Reg → BitVec n → Instr) :
    List Operand → Option Instr
  | [.reg a, .reg b, .imm v] =>
    (regNamed a).bind fun a => (regNamed b).bind fun b => (field v).map fun v => mk a b v
  | _ => none

/-- `op r, imm` (R83). -/
def asmRI {n : Nat} (field : Int → Option (BitVec n)) (mk : Reg → BitVec n → Instr) : List Operand → Option Instr
  | [.reg a, .imm v] => (regNamed a).bind fun a => (field v).map fun v => mk a v
  | _ => none

/-- `op rd, rs` (R83). -/
def asmRR (mk : Reg → Reg → Instr) : List Operand → Option Instr
  | [.reg a, .reg b] => (regNamed a).bind fun a => (regNamed b).map fun b => mk a b
  | _ => none

/-- `op rs` (R83): `jalr` takes one register. -/
def asmR (mk : Reg → Instr) : List Operand → Option Instr
  | [.reg a] => (regNamed a).map mk
  | _ => none

/-- `op imm` (R83). -/
def asmI {n : Nat} (field : Int → Option (BitVec n)) (mk : BitVec n → Instr) : List Operand → Option Instr
  | [.imm v] => (field v).map mk
  | _ => none

/-- `op r, simm10(base)` (R83). -/
def asmMem (mk : Reg → Reg → BitVec 10 → Instr) : List Operand → Option Instr
  | [.reg a, .mem v b] =>
    (regNamed a).bind fun a => (regNamed b).bind fun b => (simmField 10 v).map fun v => mk a b v
  | _ => none

/-- `op r, uimm7(sp)`: the base is the literal `sp`, by either of its names (R83). -/
def asmSp (mk : Reg → BitVec 7 → Instr) : List Operand → Option Instr
  | [.reg a, .mem v b] =>
    (regNamed a).bind fun a => if regNamed b = some Reg.sp then (evenUimm7Field v).map fun v => mk a v else none
  | _ => none

/-- What each mnemonic, in lower case, takes (R83); every other name is none: there are no pseudo-instructions
(R84). -/
def asmForm (mnemonic : String) : List Operand → Option Instr :=
  match mnemonic with
  | "add" => asmRRR .add
  | "sub" => asmRRR .sub
  | "and" => asmRRR .and
  | "xor" => asmRRR .xor
  | "or" => asmRRR .or
  | "lsl" => asmRRR .lsl
  | "lsr" => asmRRR .lsr
  | "asr" => asmRRR .asr
  | "addi" => asmRRI (simmField 10) .addi
  | "andi" => asmRRI (simmField 10) .andi
  | "xori" => asmRRI (simmField 10) .xori
  | "ori" => asmRRI (simmField 10) .ori
  | "li" => asmRI (simmField 10) .li
  | "lsli" => asmRRI (uimmField 4) .lsli
  | "lsri" => asmRRI (uimmField 4) .lsri
  | "asri" => asmRRI (uimmField 4) .asri
  | "beq" => asmRRI (simmField 10) .beq
  | "bne" => asmRRI (simmField 10) .bne
  | "blt" => asmRRI (simmField 10) .blt
  | "bltu" => asmRRI (simmField 10) .bltu
  | "ble" => asmRRI (simmField 10) .ble
  | "bleu" => asmRRI (simmField 10) .bleu
  | "j" => asmI (simmField 16) .j
  | "jal" => asmI (simmField 16) .jal
  | "lw" => asmMem .lw
  | "lb" => asmMem .lb
  | "lbu" => asmMem .lbu
  | "sw" => asmMem .sw
  | "sb" => asmMem .sb
  | "mov" => asmRR .mov
  | "add2" => asmRR .add2
  | "sub2" => asmRR .sub2
  | "and2" => asmRR .and2
  | "xor2" => asmRR .xor2
  | "or2" => asmRR .or2
  | "lsl2" => asmRR .lsl2
  | "lsr2" => asmRR .lsr2
  | "asr2" => asmRR .asr2
  | "addi2" => asmRI (simmField 6) .addi2
  | "andi2" => asmRI (simmField 6) .andi2
  | "lsi" => asmRI (simmField 6) .lsi
  | "lui" => asmRI (simmField 6) .lui
  | "lsli2" => asmRI (uimmField 4) .lsli2
  | "lsri2" => asmRI (uimmField 4) .lsri2
  | "asri2" => asmRI (uimmField 4) .asri2
  | "jalr" => asmR .jalr
  | "jr" => asmR .jr
  | "js" => asmI (simmField 11) .js
  | "jsal" => asmI (simmField 11) .jsal
  | "lwsp" => asmSp .lwsp
  | "swsp" => asmSp .swsp
  | "nop" => fun ops => if ops = [] then some .nop else none
  | _ => fun _ => none

/-- The instruction that a mnemonic and operands write, if it has an encoding under the launch's parameters: an
operand out of its range, an odd `uimm7` and `sb` with base x0 are assembly errors (R83, R76). -/
def assemble (p : Params) (mnemonic : String) (operands : List Operand) : Option Instr :=
  (asmForm mnemonic operands).filter fun i => i.wellFormed p

/-- As `assemble`, the mnemonic in any case (R83). -/
def assembleAnyCase (p : Params) (mnemonic : String) (operands : List Operand) : Option Instr :=
  assemble p mnemonic.toLower operands

end Sys2Proof.Machine
end

