-- ==== Sys2Proof/Machine/OpcodeTable.lean ====
section
/-! DEFINITION. spec/opcode_table.json as a table: a second, independent reading of the encodings, to hold the
decoder against. A row's constraint is `sb`'s "insn[15:12] != 0000" and the parameters of R76 and R129. -/

namespace Sys2Proof.Machine

/-- A row: the word matches where its bits under `mask` are `value` and the row's constraint holds. -/
structure OpcodeRow (n : Nat) where
  mask : BitVec n
  value : BitVec n
  constraint : Bool
  instr : Instr

/-- Does the word match the row? -/
def rowMatches {n : Nat} (w : BitVec n) (r : OpcodeRow n) : Bool := (w &&& r.mask == r.value) && r.constraint

/-- The 24-bit rows in the table's order, each with the instruction that the word's fields spell. -/
def rows24 (p : Params) (w : BitVec 24) : List (OpcodeRow 24) :=
  [
    ⟨0xF000FF#24, 0x000001#24, true, .add (regField w 8) (regField w 12) (regField w 16)⟩,
    ⟨0xF000FF#24, 0x000009#24, true, .sub (regField w 8) (regField w 12) (regField w 16)⟩,
    ⟨0xF000FF#24, 0x000011#24, true, .and (regField w 8) (regField w 12) (regField w 16)⟩,
    ⟨0xF000FF#24, 0x000019#24, true, .xor (regField w 8) (regField w 12) (regField w 16)⟩,
    ⟨0xF000FF#24, 0x000021#24, true, .or (regField w 8) (regField w 12) (regField w 16)⟩,
    ⟨0xF000FF#24, 0x000029#24, true, .lsl (regField w 8) (regField w 12) (regField w 16)⟩,
    ⟨0xF000FF#24, 0x000031#24, true, .lsr (regField w 8) (regField w 12) (regField w 16)⟩,
    ⟨0xF000FF#24, 0x000039#24, true, .asr (regField w 8) (regField w 12) (regField w 16)⟩,
    ⟨0x00003F#24, 0x000003#24, true, .addi (regField w 8) (regField w 12) (simm10Field w)⟩,
    ⟨0x00003F#24, 0x000013#24, true, .andi (regField w 8) (regField w 12) (simm10Field w)⟩,
    ⟨0x00003F#24, 0x00001B#24, true, .xori (regField w 8) (regField w 12) (simm10Field w)⟩,
    ⟨0x00003F#24, 0x000023#24, true, .ori (regField w 8) (regField w 12) (simm10Field w)⟩,
    ⟨0x00F03F#24, 0x000035#24, true, .li (regField w 8) (simm10Field w)⟩,
    ⟨0xF000FF#24, 0x00002B#24, true, .lsli (regField w 8) (regField w 12) (w.extractLsb' 16 4)⟩,
    ⟨0xF000FF#24, 0x000033#24, true, .lsri (regField w 8) (regField w 12) (w.extractLsb' 16 4)⟩,
    ⟨0xF000FF#24, 0x00003B#24, true, .asri (regField w 8) (regField w 12) (w.extractLsb' 16 4)⟩,
    ⟨0x00003F#24, 0x00000F#24, true, .beq (regField w 12) (regField w 8) (simm10Field w)⟩,
    ⟨0x00003F#24, 0x00002F#24, true, .bne (regField w 12) (regField w 8) (simm10Field w)⟩,
    ⟨0x00003F#24, 0x000037#24, true, .blt (regField w 12) (regField w 8) (simm10Field w)⟩,
    ⟨0x00003F#24, 0x000017#24, true, .bltu (regField w 12) (regField w 8) (simm10Field w)⟩,
    ⟨0x00003F#24, 0x00003F#24, true, .ble (regField w 12) (regField w 8) (simm10Field w)⟩,
    ⟨0x00003F#24, 0x00001F#24, true, .bleu (regField w 12) (regField w 8) (simm10Field w)⟩,
    ⟨0x0000FF#24, 0x000007#24, p.j24 == .j, .j (simm16Field w)⟩,
    ⟨0x0000FF#24, 0x000007#24, p.j24 == .jal, .jal (simm16Field w)⟩,
    ⟨0x00003F#24, 0x000015#24, true, .lw (regField w 8) (regField w 12) (simm10Field w)⟩,
    ⟨0x00003F#24, 0x000025#24, true, .lb (regField w 8) (regField w 12) (simm10Field w)⟩,
    ⟨0x00003F#24, 0x000005#24, true, .lbu (regField w 8) (regField w 12) (simm10Field w)⟩,
    ⟨0x00003F#24, 0x00000D#24, true, .sw (regField w 8) (regField w 12) (simm10Field w)⟩,
    ⟨0x00003F#24, 0x000035#24, w.extractLsb' 12 4 != 0#4 && p.sbAdmitted, .sb (regField w 8) (regField w 12) (simm10Field w)⟩
  ]

/-- The 16-bit rows in the table's order. -/
def rows16 (w : BitVec 16) : List (OpcodeRow 16) :=
  [
    ⟨0x00FF#16, 0x00C0#16, true, .mov (regField w 8) (regField w 12)⟩,
    ⟨0x00FF#16, 0x0080#16, true, .add2 (regField w 8) (regField w 12)⟩,
    ⟨0x00FF#16, 0x0088#16, true, .sub2 (regField w 8) (regField w 12)⟩,
    ⟨0x00FF#16, 0x0090#16, true, .and2 (regField w 8) (regField w 12)⟩,
    ⟨0x00FF#16, 0x0098#16, true, .xor2 (regField w 8) (regField w 12)⟩,
    ⟨0x00FF#16, 0x00A0#16, true, .or2 (regField w 8) (regField w 12)⟩,
    ⟨0x00FF#16, 0x00A8#16, true, .lsl2 (regField w 8) (regField w 12)⟩,
    ⟨0x00FF#16, 0x00B0#16, true, .lsr2 (regField w 8) (regField w 12)⟩,
    ⟨0x00FF#16, 0x00B8#16, true, .asr2 (regField w 8) (regField w 12)⟩,
    ⟨0x003F#16, 0x0002#16, true, .addi2 (regField w 8) (simm6Field w)⟩,
    ⟨0x003F#16, 0x0012#16, true, .andi2 (regField w 8) (simm6Field w)⟩,
    ⟨0x003F#16, 0x0034#16, true, .lsi (regField w 8) (simm6Field w)⟩,
    ⟨0x003F#16, 0x0004#16, true, .lui (regField w 8) (simm6Field w)⟩,
    ⟨0x00FF#16, 0x002A#16, true, .lsli2 (regField w 8) (w.extractLsb' 12 4)⟩,
    ⟨0x00FF#16, 0x0032#16, true, .lsri2 (regField w 8) (w.extractLsb' 12 4)⟩,
    ⟨0x00FF#16, 0x003A#16, true, .asri2 (regField w 8) (w.extractLsb' 12 4)⟩,
    ⟨0xF0FF#16, 0x0016#16, true, .jalr (regField w 8)⟩,
    ⟨0xF0FF#16, 0x0006#16, true, .jr (regField w 8)⟩,
    ⟨0x001F#16, 0x000E#16, true, .js (simm11Field w)⟩,
    ⟨0x001F#16, 0x001E#16, true, .jsal (simm11Field w)⟩,
    ⟨0x003F#16, 0x0014#16, true, .lwsp (regField w 8) (uimm7Field w)⟩,
    ⟨0x003F#16, 0x001C#16, true, .swsp (regField w 8) (uimm7Field w)⟩,
    ⟨0xFFFF#16, 0x0000#16, true, .nop⟩
  ]

/-- The first matching row wins. -/
def tableDecode24 (p : Params) (w : BitVec 24) : Option Instr :=
  ((rows24 p w).find? (rowMatches w)).map fun r => r.instr

/-- The first matching row wins. -/
def tableDecode16 (w : BitVec 16) : Option Instr := ((rows16 w).find? (rowMatches w)).map fun r => r.instr

end Sys2Proof.Machine
end

