-- ==== Sys2Proof/Machine/Run.lean ====
section
/-! DEFINITION. The host's side of a run (70_reset_and_hazards.md R203 to R207): launch, end of a run, read-back. -/

namespace Sys2Proof.Machine

/-- What a launch supplies (R203). -/
structure Launch where
  /-- IMEM_RANGE begins here … -/
  imageBase : Nat
  /-- … and these are its bytes, lowest address first. -/
  image : List Byte
  /-- DMEM_RANGE. -/
  dmemRange : List AddrRange
  /-- The data bytes the launch gives. -/
  data : List Host.Cell := []
  /-- RESET_PC. -/
  resetPc : Word := Sys2Proof.resetPc
  /-- The open parameters. -/
  params : Params := Params.specDefaults
  /-- The registers the launch gives; the others keep `State.reset`'s value (log 1). -/
  regs : List (Reg × Word) := []
deriving DecidableEq, Repr

/-- Why a launch is refused before any instruction runs (R204). -/
inductive LaunchRefusal where
  /-- IMEM_RANGE is empty. Safe. -/
  | imageEmpty
  /-- IMEM_RANGE does not fit below 0x10000. Safe. -/
  | imageTooHigh
  /-- RESET_PC is outside IMEM_RANGE. Safe. -/
  | resetPcOutside
  /-- A parameter has a value outside the set of R3: the model's own `free`, the one such value that can be written.
  Safe. -/
  | parameterOutside
  /-- A data byte is given at an address outside DMEM_RANGE: no launch of R203 (DESIGN CHOICE, log 23). Safe. -/
  | dataOutside
deriving DecidableEq, Repr

/-- IMEM_RANGE of a launch: the addresses its image occupies (R203). -/
def Launch.imemRange (l : Launch) : AddrRange := ⟨l.imageBase, l.image.length⟩

/-- Is a data byte given at an address of DMEM_RANGE? -/
def Launch.declares (l : Launch) (c : Host.Cell) : Bool :=
  decide (c.1 < 65536) && l.dmemRange.any fun r => rangeHas r c.1

/-- The state a launch starts from (R200, R203), every step of which is `step`. -/
def Launch.state (l : Launch) : State where
  regs := l.regs.foldl (fun v c => v.set c.1 c.2) State.reset.regs
  pc := l.resetPc
  imem := Memory.writeAll [] l.imageBase l.image
  dmem := l.data.foldl (fun m c => Memory.write m c.1 c.2) []
  imemRange := l.imemRange
  dmemRange := l.dmemRange
  params := l.params
  draws := State.reset.draws

/-- The launch: refused (R204), or the first state (R203). -/
def Launch.start (l : Launch) : Except LaunchRefusal State :=
  if l.image = [] then .error .imageEmpty
  else if 65536 < l.imageBase + l.image.length then .error .imageTooHigh
  else if !rangeHas l.imemRange l.resetPc.toNat then .error .resetPcOutside
  else if !l.params.listed then .error .parameterOutside
  else if !l.data.all l.declares then .error .dataOutside
  else .ok l.state

/-- A run has ended at a state whose instruction leaves the state as it is (R206, D14; log 22). -/
def State.ended (s : State) : Bool :=
  match step s with
  | .next t => decide (t = s)
  | .fault _ => false
  | .refused _ => false

/-- The model is stuck: the step answers no next state (R181). -/
def State.stuck (s : State) : Bool :=
  match step s with
  | .next _ => false
  | .fault _ => true
  | .refused _ => true

/-- What the host may read after a run (R207): pc and x0 to x15 … -/
def State.readBack (s : State) : Word × Vector Word 16 := (s.pc, s.regs)

/-- … and each byte of DMem in DMEM_RANGE, as a value or "no value" (`some none`). Of an address in IMEM_RANGE too, the
byte is the image's under `unified` (log 9) and data memory's own under `split`; where MEM_ORG is `refuse` or `free` the
spec does not say which, and `Config.codeShared`, of which nothing can be proved, does (DESIGN CHOICE, log 27). -/
def State.readBackByte (s : State) (a : Nat) : Option (Option Byte) :=
  if s.declared a then some (s.dataByte a) else none

end Sys2Proof.Machine
end

