-- ==== Sys2Proof/Safety.lean ====
section
/-! DEFINITION. The terms in which statements about the machine are made: the invariant, what an instruction may
write, and the spec's own conditions in its own words. -/

namespace Sys2Proof.Machine

/-! ## The invariant -/

/-- What every launched state satisfies and every step keeps: both byte maps are in canonical form, IMEM_RANGE lies
below 0x10000 and is exactly the addresses that hold an image byte (R203, R204), and data memory holds bytes at
addresses of DMEM_RANGE only (R37). -/
structure State.Inv (s : State) : Prop where
  imemWf : Memory.wf s.imem = true
  dmemWf : Memory.wf s.dmem = true
  rangeFits : s.imemRange.base + s.imemRange.len ≤ 65536
  imageFull : ∀ a : Nat, s.inCode a = true ↔ (Memory.read s.imem a).isSome = true
  dataDeclared : ∀ a : Nat, (Memory.read s.dmem a).isSome = true → s.declared a = true

/-! ## What an instruction may write -/

/-- The general registers the spec says the instruction writes: its destination field, and x0 for the linking jumps
(R12). -/
def destinations : Instr → List Reg
  | .add rd _ _ => [rd] | .sub rd _ _ => [rd] | .and rd _ _ => [rd] | .xor rd _ _ => [rd]
  | .or rd _ _ => [rd] | .lsl rd _ _ => [rd] | .lsr rd _ _ => [rd] | .asr rd _ _ => [rd]
  | .addi rd _ _ => [rd] | .andi rd _ _ => [rd] | .xori rd _ _ => [rd] | .ori rd _ _ => [rd]
  | .li rd _ => [rd] | .lsli rd _ _ => [rd] | .lsri rd _ _ => [rd] | .asri rd _ _ => [rd]
  | .beq _ _ _ => [] | .bne _ _ _ => [] | .blt _ _ _ => [] | .bltu _ _ _ => [] | .ble _ _ _ => []
  | .bleu _ _ _ => [] | .j _ => [] | .jal _ => [Reg.ra]
  | .lw rd _ _ => [rd] | .lb rd _ _ => [rd] | .lbu rd _ _ => [rd] | .sw _ _ _ => [] | .sb _ _ _ => []
  | .mov rd _ => [rd] | .add2 rd _ => [rd] | .sub2 rd _ => [rd] | .and2 rd _ => [rd] | .xor2 rd _ => [rd]
  | .or2 rd _ => [rd] | .lsl2 rd _ => [rd] | .lsr2 rd _ => [rd] | .asr2 rd _ => [rd]
  | .addi2 rd _ => [rd] | .andi2 rd _ => [rd] | .lsi rd _ => [rd] | .lui rd _ => [rd]
  | .lsli2 rd _ => [rd] | .lsri2 rd _ => [rd] | .asri2 rd _ => [rd]
  | .jalr _ => [Reg.ra] | .jr _ => [] | .js _ => [] | .jsal _ => [Reg.ra]
  | .lwsp rd _ => [rd] | .swsp _ _ => [] | .nop => []

/-- The addresses of the two bytes a word store at `ea` writes (R35), computed as the store computes them. -/
def wordBytes (s : State) (ea : Word) : List Nat :=
  match s.wordAddr ea with
  | .next w => [w.toNat, (w + 1#16).toNat]
  | .fault _ => []
  | .refused _ => []

/-- The addresses of the bytes the instruction stores to (R134, R135, R171); none for every other form. -/
def storedBytes (s : State) : Instr → List Nat
  | .sw _ base imm => wordBytes s (s.ea base imm)
  | .sb _ base imm => [(s.ea base imm).toNat]
  | .swsp _ imm => wordBytes s (s.eaSp imm)
  | .add .. | .sub .. | .and .. | .xor .. | .or .. | .lsl .. | .lsr .. | .asr .. => []
  | .addi .. | .andi .. | .xori .. | .ori .. | .li .. | .lsli .. | .lsri .. | .asri .. => []
  | .beq .. | .bne .. | .blt .. | .bltu .. | .ble .. | .bleu .. | .j .. | .jal .. => []
  | .lw .. | .lb .. | .lbu .. => []
  | .mov .. | .add2 .. | .sub2 .. | .and2 .. | .xor2 .. | .or2 .. | .lsl2 .. | .lsr2 .. | .asr2 .. => []
  | .addi2 .. | .andi2 .. | .lsi .. | .lui .. | .lsli2 .. | .lsri2 .. | .asri2 .. => []
  | .jalr .. | .jr .. | .js .. | .jsal .. | .lwsp .. | .nop => []

/-- A data access of an instruction: a load or a store, of a word or a byte, at an effective address. -/
structure DataAccess where
  isLoad : Bool
  isWord : Bool
  ea : Word
deriving DecidableEq, Repr

/-- The instruction at pc is `i`: the bytes fetched there decode to it (R38, R79). -/
def State.runs (s : State) (i : Instr) : Prop :=
  ∃ bytes rest, s.fetch = .next bytes ∧ decode s.params bytes = .ok (i, rest)

/-- The register whose value is the amount of a register shift (R105 to R107, R145 to R147). -/
def amountRegister : Instr → Option Reg
  | .lsl _ _ rs2 => some rs2 | .lsr _ _ rs2 => some rs2 | .asr _ _ rs2 => some rs2
  | .lsl2 _ rs => some rs | .lsr2 _ rs => some rs | .asr2 _ rs => some rs
  | .add .. | .sub .. | .and .. | .xor .. | .or .. => none
  | .addi .. | .andi .. | .xori .. | .ori .. | .li .. | .lsli .. | .lsri .. | .asri .. => none
  | .beq .. | .bne .. | .blt .. | .bltu .. | .ble .. | .bleu .. | .j .. | .jal .. => none
  | .lw .. | .lb .. | .lbu .. | .sw .. | .sb .. => none
  | .mov .. | .add2 .. | .sub2 .. | .and2 .. | .xor2 .. | .or2 .. => none
  | .addi2 .. | .andi2 .. | .lsi .. | .lui .. | .lsli2 .. | .lsri2 .. | .asri2 .. => none
  | .jalr .. | .jr .. | .js .. | .jsal .. | .lwsp .. | .swsp .. | .nop => none

/-- The instructions that set pc in their rule: the branches and the jumps (R8, R14). -/
def setsPc : Instr → Bool
  | .beq .. | .bne .. | .blt .. | .bltu .. | .ble .. | .bleu .. | .j .. | .jal .. => true
  | .jalr .. | .jr .. | .js .. | .jsal .. => true
  | .add .. | .sub .. | .and .. | .xor .. | .or .. | .lsl .. | .lsr .. | .asr .. => false
  | .addi .. | .andi .. | .xori .. | .ori .. | .li .. | .lsli .. | .lsri .. | .asri .. => false
  | .lw .. | .lb .. | .lbu .. | .sw .. | .sb .. => false
  | .mov .. | .add2 .. | .sub2 .. | .and2 .. | .xor2 .. | .or2 .. | .lsl2 .. | .lsr2 .. | .asr2 .. => false
  | .addi2 .. | .andi2 .. | .lsi .. | .lui .. | .lsli2 .. | .lsri2 .. | .asri2 .. => false
  | .lwsp .. | .swsp .. | .nop => false

/-- Both byte maps hold the same at an address (R24). -/
def SameByte (s t : State) (a : Nat) : Prop :=
  Memory.read t.imem a = Memory.read s.imem a ∧ Memory.read t.dmem a = Memory.read s.dmem a

/-- What the launch fixed is the same (R3, R203). -/
def SameLaunch (s t : State) : Prop :=
  t.params = s.params ∧ t.imemRange = s.imemRange ∧ t.dmemRange = s.dmemRange

/-! ## The spec's conditions -/

/-- A data access to the byte at `a` is allowed: in DMEM_RANGE (R37), and not in IMEM_RANGE where MEM_ORG is left to
be refused (R39); where it is the model's own `free`, log 8, the access is allowed. -/
def Accessible (s : State) (a : Word) : Prop :=
  s.declared a.toNat = true ∧ (s.params.memOrg = .refuse → s.inCode a.toNat = false)

/-- A load of the byte at `a` gives `b` (R34). -/
def Readable (s : State) (a : Word) (b : Byte) : Prop := Accessible s a ∧ s.dataByte a.toNat = some b

/-- `w` is where a word access at effective address `ea` goes (R36): at `ea` where it is even, or odd and
MISALIGNED_WORD is `split`; at the even address below an odd one where it is `mask`. -/
def WordGoesTo (s : State) (ea w : Word) : Prop :=
  (ea.toNat % 2 = 0 ∧ w = ea) ∨
    (ea.toNat % 2 = 1 ∧ s.params.misalignedWord = .split ∧ w = ea) ∨
      (ea.toNat % 2 = 1 ∧ s.params.misalignedWord = .mask ∧ w.toNat = ea.toNat - 1)

/-- The effective address of a 24-bit load or store, as a number modulo 65536 (R30). -/
def eaNumber (s : State) (base : Reg) (simm10 : BitVec 10) : Word :=
  BitVec.ofInt 16 ((s.reg base).toNat + simm10.toInt)

/-- The effective address of `lwsp` and `swsp`, as a number modulo 65536 (R30). -/
def eaSpNumber (s : State) (uimm7 : BitVec 7) : Word := BitVec.ofNat 16 ((s.reg Reg.sp).toNat + uimm7.toNat)

/-- The data access an instruction makes, with its effective address (R30, R131 to R135, R170, R171). -/
def dataAccess (s : State) : Instr → Option DataAccess
  | .lw _ base imm => some ⟨true, true, eaNumber s base imm⟩
  | .lb _ base imm => some ⟨true, false, eaNumber s base imm⟩
  | .lbu _ base imm => some ⟨true, false, eaNumber s base imm⟩
  | .sw _ base imm => some ⟨false, true, eaNumber s base imm⟩
  | .sb _ base imm => some ⟨false, false, eaNumber s base imm⟩
  | .lwsp _ imm => some ⟨true, true, eaSpNumber s imm⟩
  | .swsp _ imm => some ⟨false, true, eaSpNumber s imm⟩
  | .add .. | .sub .. | .and .. | .xor .. | .or .. | .lsl .. | .lsr .. | .asr .. => none
  | .addi .. | .andi .. | .xori .. | .ori .. | .li .. | .lsli .. | .lsri .. | .asri .. => none
  | .beq .. | .bne .. | .blt .. | .bltu .. | .ble .. | .bleu .. | .j .. | .jal .. => none
  | .mov .. | .add2 .. | .sub2 .. | .and2 .. | .xor2 .. | .or2 .. | .lsl2 .. | .lsr2 .. | .asr2 .. => none
  | .addi2 .. | .andi2 .. | .lsi .. | .lui .. | .lsli2 .. | .lsri2 .. | .asri2 .. => none
  | .jalr .. | .jr .. | .js .. | .jsal .. | .nop => none

/-- The addresses of the bytes a data access reads or writes (R34, R35), computed as the access computes them. -/
def DataAccess.bytes (d : DataAccess) (s : State) : List Nat :=
  if d.isWord then wordBytes s d.ea else [d.ea.toNat]

/-- The checks of R183 step 7 on the byte at `a` pass: accessible, and for a load it holds a value. -/
def DataAccess.Passes (d : DataAccess) (s : State) (a : Word) : Prop :=
  Accessible s a ∧ (d.isLoad = true → s.dataByte a.toNat ≠ none)

/-- The checks of R183 step 7 on the byte at `a` end in `r`: `AccessFault` outside DMEM_RANGE (R37), then
`RefusedCodeAccess` inside IMEM_RANGE where MEM_ORG is left open (R39), then for a load `AccessFault` where the byte
holds no value (R37). -/
def DataAccess.StopsAt (d : DataAccess) (s : State) (a : Word) (r : Res State) : Prop :=
  (s.declared a.toNat = false ∧ r = .fault (.accessFault a)) ∨
    (s.declared a.toNat = true ∧ s.inCode a.toNat = true ∧ s.params.memOrg = .refuse ∧
      r = .refused (.refusedCodeAccess a)) ∨
    (d.isLoad = true ∧ Accessible s a ∧ s.dataByte a.toNat = none ∧ r = .fault (.accessFault a))

/-- The number that the bytes `b0`, then `b1`, of a word are (R32). -/
def wordNumber : DataEndian → Byte → Byte → Word
  | .little, b0, b1 => BitVec.ofNat 16 (b0.toNat + 256 * b1.toNat)
  | .big, b0, b1 => BitVec.ofNat 16 (256 * b0.toNat + b1.toNat)

/-- The byte of a word that stands first, and the one that stands second, as numbers (R32). -/
def byteNumbers : DataEndian → Word → Byte × Byte
  | .little, v => (BitVec.ofNat 8 v.toNat, BitVec.ofNat 8 (v.toNat / 256))
  | .big, v => (BitVec.ofNat 8 (v.toNat / 256), BitVec.ofNat 8 v.toNat)

/-- R6's arithmetic for the three shifts by `n` of 0 to 15: `(u(a) * 2^n) mod 65536`, `floor(u(a) / 2^n)`,
`floor(s(a) / 2^n) mod 65536`. -/
def shiftNumber : ShiftOp → Word → Nat → Word
  | .lsl, a, n => BitVec.ofNat 16 (a.toNat * 2 ^ n)
  | .lsr, a, n => BitVec.ofNat 16 (a.toNat / 2 ^ n)
  | .asr, a, n => BitVec.ofInt 16 (a.toInt / 2 ^ n)

/-- What R116 says of SHIFT_AMOUNT = `full`: `lsl` and `lsr` give 0x0000, `asr` 0x0000 or 0xFFFF by bit 15. -/
def shiftedOut : ShiftOp → Word → Word
  | .lsl, _ => 0x0000#16
  | .lsr, _ => 0x0000#16
  | .asr, a => if a.msb then 0xFFFF#16 else 0x0000#16

/-- The state after an instruction whose one register write is `rd <- v` and whose length is `len` (R7, R8). -/
def afterWrite (s : State) (rd : Reg) (v : Word) (len : Word) : State :=
  { s with regs := s.regs.set rd v, pc := s.pc + len }

/-- Instruction `i` of length `len` shifts `a` by the register value `v` into `rd`, as R116 says for the three values
the spec gives SHIFT_AMOUNT. -/
def ShiftsByRegister (i : Instr) (op : ShiftOp) (len : Word) (rd : Reg) (a v : Word) (s : State) : Prop :=
  if v.toNat < 16 then exec i s = .next (afterWrite s rd (shiftNumber op a v.toNat) len)
  else
    (s.params.shiftAmount = .refuse → exec i s = .refused (.refusedShiftAmount s.pc v)) ∧
      (s.params.shiftAmount = .low4 → exec i s = .next (afterWrite s rd (shiftNumber op a (v.toNat % 16)) len)) ∧
        (s.params.shiftAmount = .full → exec i s = .next (afterWrite s rd (shiftedOut op a) len))

/-- The low `k` bits of the instruction's encoding are `op`: its opcode (R74, R75). -/
def HasOpcode (i : Instr) (k op : Nat) : Prop := (insnOfBytes (encode i)).toNat % 2 ^ k = op

/-- The reserved 24-bit words, in R80's numbering. -/
def Reserved24 (p : Params) (w : BitVec 24) : Prop :=
  let low3 := w.extractLsb' 0 3
  let low6 := w.extractLsb' 0 6
  let bits7_6 := w.extractLsb' 6 2
  let bits15_12 := w.extractLsb' 12 4
  let bits23_20 := w.extractLsb' 20 4
  (low3 = 0b001#3 ∧ bits7_6 ≠ 0#2) ∨
  (low3 = 0b001#3 ∧ bits7_6 = 0#2 ∧ bits23_20 ≠ 0#4) ∨
  (low6 = 0b001011#6) ∨
  ((low6 = 0b101011#6 ∨ low6 = 0b110011#6 ∨ low6 = 0b111011#6) ∧ (bits7_6 ≠ 0#2 ∨ bits23_20 ≠ 0#4)) ∨
  (low6 = 0b011101#6 ∨ low6 = 0b101101#6 ∨ low6 = 0b111101#6) ∨
  (low6 = 0b110101#6 ∧ bits15_12 ≠ 0#4 ∧ p.sbAdmitted = false) ∨
  (low6 = 0b000111#6 ∧ (bits7_6 ≠ 0#2 ∨ p.j24 = .notAdmitted)) ∨
  (low6 = 0b100111#6)

/-- The reserved 16-bit words, in R80's numbering (cases 9 to 15). -/
def Reserved16 (w : BitVec 16) : Prop :=
  let low3 := w.extractLsb' 0 3
  let low5 := w.extractLsb' 0 5
  let low6 := w.extractLsb' 0 6
  let bits5_3 := w.extractLsb' 3 3
  let bits7_6 := w.extractLsb' 6 2
  let bits7_5 := w.extractLsb' 5 3
  let bits15_12 := w.extractLsb' 12 4
  (low3 = 0b000#3 ∧ bits7_6 = 0b01#2) ∨
  (low3 = 0b000#3 ∧ bits7_6 = 0b00#2 ∧ w ≠ 0#16) ∨
  (low3 = 0b000#3 ∧ bits7_6 = 0b11#2 ∧ bits5_3 ≠ 0#3) ∨
  (low6 = 0b001010#6 ∨ low6 = 0b011010#6 ∨ low6 = 0b100010#6) ∨
  ((low6 = 0b101010#6 ∨ low6 = 0b110010#6 ∨ low6 = 0b111010#6) ∧ bits7_6 ≠ 0#2) ∨
  (low6 = 0b001100#6 ∨ low6 = 0b100100#6 ∨ low6 = 0b101100#6 ∨ low6 = 0b111100#6) ∨
  ((low5 = 0b00110#5 ∨ low5 = 0b10110#5) ∧ (bits7_5 ≠ 0#3 ∨ bits15_12 ≠ 0#4))

/-! ## Parameters -/

/-- What R204 has a launch refused for: IMEM_RANGE is empty, or does not fit below 0x10000; RESET_PC is outside it; a
parameter has a value that R3 does not list. -/
def Launch.MustRefuse (l : Launch) : Prop :=
  l.image = [] ∨ 65536 < l.imageBase + l.image.length ∨
    ¬(l.imageBase ≤ l.resetPc.toNat ∧ l.resetPc.toNat < l.imageBase + l.image.length) ∨
      l.params.memOrg = .free ∨ l.params.misalignedWord = .free ∨ l.params.shiftAmount = .free

/-- The data bytes a launch gives are bytes of its DMEM_RANGE (R203). -/
def Launch.DataDeclared (l : Launch) : Prop :=
  ∀ c ∈ l.data, c.1 < 65536 ∧ ∃ r ∈ l.dmemRange, r.base ≤ c.1 ∧ c.1 < r.base + r.len

/-- The same machine with other parameters. -/
def State.withParams (s : State) (p : Params) : State := { s with params := p }

/-- `q` differs from `p` only where `p` declines to choose: it gives MEM_ORG, MISALIGNED_WORD or SHIFT_AMOUNT any
value where `p` has the value that stops (R39, R36, R116). -/
def settles (p q : Params) : Prop :=
  (p.memOrg = .refuse ∨ q.memOrg = p.memOrg) ∧
    (p.misalignedWord = .fault ∨ q.misalignedWord = p.misalignedWord) ∧
      (p.shiftAmount = .refuse ∨ q.shiftAmount = p.shiftAmount) ∧
        q.dataEndian = p.dataEndian ∧ q.sbAdmitted = p.sbAdmitted ∧ q.j24 = p.j24 ∧ q.jalLink = p.jalLink

end Sys2Proof.Machine
end

