-- ==== Sys2Proof/Certificates/Slice0/Obligations.lean ====
section
/-! DEFINITION. The statements for the provers. Each docstring names the rules of spec/ it formalises. -/

open Sys2Proof Sys2Proof.Machine

/-! ## Encoding -/

/-- R53 to R75, R79, R83: decoding the encoding of a well-formed instruction gives it back, whatever bytes follow. -/
def Obligations.DecodeOfEncodeIsTheInstruction : Prop :=
  ∀ (p : Params) (i : Instr) (rest : List Byte),
    i.wellFormed p = true → decode p (encode i ++ rest) = .ok (i, rest)

/-- R79, "No two arms overlap": what the decoder reads is well formed and its encoding is exactly the bytes that were
read, so no bit is dropped and no two byte strings are one instruction. -/
def Obligations.EncodeOfDecodeIsTheBytes : Prop :=
  ∀ (p : Params) (i : Instr) (bytes rest : List Byte),
    decode p bytes = .ok (i, rest) → i.wellFormed p = true ∧ encode i ++ rest = bytes

/-- The decoder of R79 and the machine-readable table (opcode_table.json, first matching row wins) read every word
alike, whatever a launch admits. -/
def Obligations.DecoderAgreesWithOpcodeTable : Prop :=
  (∀ (p : Params) (w : BitVec 24), decode24 p w = tableDecode24 p w) ∧
    (∀ w : BitVec 16, decode16 w = tableDecode16 w)

/-- R80, R81: the reserved words are exactly the fifteen cases. -/
def Obligations.ReservedWordsAreTheFifteenCases : Prop :=
  (∀ (p : Params) (w : BitVec 24), w[0] = true → (decode24 p w = none ↔ Reserved24 p w)) ∧
    (∀ w : BitVec 16, w[0] = false → (decode16 w = none ↔ Reserved16 w))

/-- R51: bit 0 of the instruction tells its length, for what is encoded and for what is decoded. -/
def Obligations.BitZeroTellsTheLength : Prop :=
  (∀ i : Instr, ∃ b bs, encode i = b :: bs ∧ (encode i).length = if b[0] then 3 else 2) ∧
    (∀ (p : Params) (b : Byte) (bs rest : List Byte) (i : Instr),
      decode p (b :: bs) = .ok (i, rest) → (b :: bs).length = rest.length + if b[0] then 3 else 2)

/-- R76: a 24-bit word with insn[5:0] = 110101 is `li` where insn[15:12] = 0000, else `sb` with base insn[15:12]
where SB_ADMITTED, else reserved. -/
def Obligations.LiAndSbShareOneOpcode : Prop :=
  ∀ (p : Params) (w : BitVec 24), w.extractLsb' 0 6 = 0b110101#6 →
    decode24 p w =
      if w.extractLsb' 12 4 = 0#4 then
        some (.li (Fin.ofNat 16 (w.toNat / 2 ^ 8)) (w.extractLsb' 6 2 ++ w.extractLsb' 16 8))
      else if p.sbAdmitted then
        some (.sb (Fin.ofNat 16 (w.toNat / 2 ^ 8)) (Fin.ofNat 16 (w.toNat / 2 ^ 12))
          (w.extractLsb' 6 2 ++ w.extractLsb' 16 8))
      else none

/-- R77, R129: the 24-bit word with insn[7:0] = 00000111 is reserved by default, and else the one of `j` and `jal`
that the launch says; with insn[5:0] = 000111 and insn[7:6] not 00 it is reserved in either case. -/
def Obligations.OneWordPatternForJAndJal : Prop :=
  Params.specDefaults.j24 = .notAdmitted ∧
    ∀ (p : Params) (w : BitVec 24),
      (w.extractLsb' 0 8 = 0b00000111#8 →
        decode24 p w =
          match p.j24 with
          | .notAdmitted => none
          | .j => some (.j (w.extractLsb' 8 16))
          | .jal => some (.jal (w.extractLsb' 8 16))) ∧
      (w.extractLsb' 0 6 = 0b000111#6 → w.extractLsb' 6 2 ≠ 0#2 → decode24 p w = none)

/-- A few words written out from the spec's encodings (95_test_vectors.md section 2) decode to their instructions. -/
def Obligations.WrittenOutWordsDecode : Prop :=
  decodeTableWord 24 0x0A9801 = some (.add 8 9 10) ∧ decodeTableWord 24 0xFF98C3 = some (.addi 8 9 (-1)) ∧
    decodeTableWord 24 0xFC9EEF = some (.bne 9 14 (-4)) ∧ decodeTableWord 24 0x02180D = some (.sw 8 1 2) ∧
      decodeTableWord 24 0xFF38F5 = some (.sb 8 3 (-1)) ∧ decodeTableWord 16 0x9888 = some (.sub2 8 9) ∧
        decodeTableWord 16 0xB884 = some (.lui 8 (-21)) ∧ decodeTableWord 16 0x135C = some (.swsp 3 34) ∧
          decodeTableWord 16 0x800E = some (.js (-1024)) ∧ decodeTableWord 16 0x0000 = some .nop

/-! ## What each instruction does: 24-bit integer -/

/-- R100, R101. -/
def Obligations.AddAndSubAreModulo65536 : Prop :=
  ∀ (rd rs1 rs2 : Reg) (s : State),
    HasOpcode (.add rd rs1 rs2) 8 0b00000001 ∧ HasOpcode (.sub rd rs1 rs2) 8 0b00001001 ∧
      exec (.add rd rs1 rs2) s =
        .next (afterWrite s rd (BitVec.ofNat 16 ((s.reg rs1).toNat + (s.reg rs2).toNat)) 3) ∧
      exec (.sub rd rs1 rs2) s =
        .next (afterWrite s rd (BitVec.ofInt 16 ((s.reg rs1).toInt - (s.reg rs2).toInt)) 3)

/-- R102, R103, R104: bit by bit, 16 bits. -/
def Obligations.AndXorOrAreBitwise : Prop :=
  ∀ (rd rs1 rs2 : Reg) (s : State),
    (HasOpcode (.and rd rs1 rs2) 8 0b00010001 ∧
      ∃ v : Word, (∀ k < 16, v.getLsbD k = ((s.reg rs1).getLsbD k && (s.reg rs2).getLsbD k)) ∧
        exec (.and rd rs1 rs2) s = .next (afterWrite s rd v 3)) ∧
    (HasOpcode (.xor rd rs1 rs2) 8 0b00011001 ∧
      ∃ v : Word, (∀ k < 16, v.getLsbD k = ((s.reg rs1).getLsbD k ^^ (s.reg rs2).getLsbD k)) ∧
        exec (.xor rd rs1 rs2) s = .next (afterWrite s rd v 3)) ∧
    (HasOpcode (.or rd rs1 rs2) 8 0b00100001 ∧
      ∃ v : Word, (∀ k < 16, v.getLsbD k = ((s.reg rs1).getLsbD k || (s.reg rs2).getLsbD k)) ∧
        exec (.or rd rs1 rs2) s = .next (afterWrite s rd v 3))

/-- R105, R106, R107, R116: `lsl`, `lsr`, `asr` for every amount and the three values the spec gives SHIFT_AMOUNT. -/
def Obligations.LslLsrAsrShiftByARegister : Prop :=
  ∀ (rd rs1 rs2 : Reg) (s : State),
    HasOpcode (.lsl rd rs1 rs2) 8 0b00101001 ∧ HasOpcode (.lsr rd rs1 rs2) 8 0b00110001 ∧
      HasOpcode (.asr rd rs1 rs2) 8 0b00111001 ∧
      ShiftsByRegister (.lsl rd rs1 rs2) .lsl 3 rd (s.reg rs1) (s.reg rs2) s ∧
      ShiftsByRegister (.lsr rd rs1 rs2) .lsr 3 rd (s.reg rs1) (s.reg rs2) s ∧
      ShiftsByRegister (.asr rd rs1 rs2) .asr 3 rd (s.reg rs1) (s.reg rs2) s ∧
      Params.specDefaults.shiftAmount = .refuse

/-- The model's choice (log 6), not a rule of the spec: where SHIFT_AMOUNT is `free`, a register shift by 16 or more
completes; some value is written, about which nothing is said, and everything else is as for any amount. -/
def Obligations.FreeShiftAmountRunsOn : Prop :=
  ∀ (rd rs1 rs2 : Reg) (s : State), s.params.shiftAmount = .free → 16 ≤ (s.reg rs2).toNat →
    (∀ i ∈ [Instr.lsl rd rs1 rs2, Instr.lsr rd rs1 rs2, Instr.asr rd rs1 rs2],
      ∃ v : Word, exec i s = .next { afterWrite s rd v 3 with draws := s.draws + 1 }) ∧
    (∀ i ∈ [Instr.lsl2 rd rs2, Instr.lsr2 rd rs2, Instr.asr2 rd rs2],
      ∃ v : Word, exec i s = .next { afterWrite s rd v 2 with draws := s.draws + 1 })

/-- R108, R112: the immediate is a signed number, -512 to 511; a word with `li`'s opcode and insn[15:12] not 0000 is
not `li`. -/
def Obligations.AddiAndLiUseASignedImmediate : Prop :=
  ∀ (rd rs1 : Reg) (imm : BitVec 10) (s : State),
    HasOpcode (.addi rd rs1 imm) 6 0b000011 ∧ HasOpcode (.li rd imm) 6 0b110101 ∧
      (insnOfBytes (encode (.li rd imm))).extractLsb' 12 4 = 0b0000#4 ∧
      exec (.addi rd rs1 imm) s =
        .next (afterWrite s rd (BitVec.ofInt 16 ((s.reg rs1).toNat + imm.toInt)) 3) ∧
      exec (.li rd imm) s = .next (afterWrite s rd (BitVec.ofInt 16 imm.toInt) 3) ∧
      ∀ (p : Params) (w : BitVec 24), w.extractLsb' 0 6 = 0b110101#6 → w.extractLsb' 12 4 ≠ 0b0000#4 →
        decode24 p w ≠ some (.li rd imm)

/-- R109, R110, R111: bit by bit with the sign-extended immediate, whose bits 15:9 are all its bit 9. -/
def Obligations.AndiXoriOriSignExtend : Prop :=
  ∀ (rd rs1 : Reg) (imm : BitVec 10) (s : State),
    (HasOpcode (.andi rd rs1 imm) 6 0b010011 ∧
      ∃ v : Word, (∀ k < 16, v.getLsbD k = ((s.reg rs1).getLsbD k && imm.getLsbD (min k 9))) ∧
        exec (.andi rd rs1 imm) s = .next (afterWrite s rd v 3)) ∧
    (HasOpcode (.xori rd rs1 imm) 6 0b011011 ∧
      ∃ v : Word, (∀ k < 16, v.getLsbD k = ((s.reg rs1).getLsbD k ^^ imm.getLsbD (min k 9))) ∧
        exec (.xori rd rs1 imm) s = .next (afterWrite s rd v 3)) ∧
    (HasOpcode (.ori rd rs1 imm) 6 0b100011 ∧
      ∃ v : Word, (∀ k < 16, v.getLsbD k = ((s.reg rs1).getLsbD k || imm.getLsbD (min k 9))) ∧
        exec (.ori rd rs1 imm) s = .next (afterWrite s rd v 3))

/-- R113, R114, R115: every encodable amount is defined. -/
def Obligations.LsliLsriAsriShiftByAnImmediate : Prop :=
  ∀ (rd rs1 : Reg) (n : BitVec 4) (s : State),
    HasOpcode (.lsli rd rs1 n) 8 0b00101011 ∧ HasOpcode (.lsri rd rs1 n) 8 0b00110011 ∧
      HasOpcode (.asri rd rs1 n) 8 0b00111011 ∧
      exec (.lsli rd rs1 n) s = .next (afterWrite s rd (shiftNumber .lsl (s.reg rs1) n.toNat) 3) ∧
      exec (.lsri rd rs1 n) s = .next (afterWrite s rd (shiftNumber .lsr (s.reg rs1) n.toNat) 3) ∧
      exec (.asri rd rs1 n) s = .next (afterWrite s rd (shiftNumber .asr (s.reg rs1) n.toNat) 3)

/-! ## Branches and jumps -/

/-- R121 to R126 (with R120's taken and not-taken pc): a branch changes pc and nothing else. -/
def Obligations.BranchesCompareAndSetPc : Prop :=
  ∀ (rs1 rs2 : Reg) (imm : BitVec 10) (s : State),
    let a := s.reg rs1
    let b := s.reg rs2
    let goes : Bool → State := fun c =>
      { s with pc := if c then BitVec.ofInt 16 (s.pc.toNat + imm.toInt) else BitVec.ofNat 16 (s.pc.toNat + 3) }
    (HasOpcode (.beq rs1 rs2 imm) 6 0b001111 ∧ HasOpcode (.bne rs1 rs2 imm) 6 0b101111 ∧
      HasOpcode (.blt rs1 rs2 imm) 6 0b110111 ∧ HasOpcode (.bltu rs1 rs2 imm) 6 0b010111 ∧
      HasOpcode (.ble rs1 rs2 imm) 6 0b111111 ∧ HasOpcode (.bleu rs1 rs2 imm) 6 0b011111) ∧
    exec (.beq rs1 rs2 imm) s = .next (goes (decide (a.toNat = b.toNat))) ∧
    exec (.bne rs1 rs2 imm) s = .next (goes (decide (a.toNat ≠ b.toNat))) ∧
    exec (.blt rs1 rs2 imm) s = .next (goes (decide (a.toInt < b.toInt))) ∧
    exec (.bltu rs1 rs2 imm) s = .next (goes (decide (a.toNat < b.toNat))) ∧
    exec (.ble rs1 rs2 imm) s = .next (goes (decide (a.toInt ≤ b.toInt))) ∧
    exec (.bleu rs1 rs2 imm) s = .next (goes (decide (a.toNat ≤ b.toNat)))

/-- R127, R128: `j` sets pc; `jal` links to pc plus JAL_LINK_OFFSET (3 by default) in x0, both from the old pc; both
hold `simm16` in insn[23:8] under the same opcode digits, and neither is admitted by default. -/
def Obligations.JAndJalJumpFromTheOldPc : Prop :=
  ∀ (imm : BitVec 16) (s : State),
    HasOpcode (.j imm) 8 0b00000111 ∧ HasOpcode (.jal imm) 8 0b00000111 ∧
      (insnOfBytes (encode (.j imm))).extractLsb' 8 16 = imm ∧ encode (.jal imm) = encode (.j imm) ∧
      Instr.admitted Params.specDefaults (.j imm) = false ∧ Instr.admitted Params.specDefaults (.jal imm) = false ∧
      exec (.j imm) s = .next { s with pc := BitVec.ofNat 16 (s.pc.toNat + imm.toNat) } ∧
      exec (.jal imm) s =
        .next { s with
          regs := s.regs.set 0 (BitVec.ofNat 16 (s.pc.toNat +
            match s.params.jalLink with
            | .plus3 => 3
            | .plus4 => 4))
          pc := BitVec.ofNat 16 (s.pc.toNat + imm.toNat) } ∧
      Params.specDefaults.jalLink = .plus3

/-- R160 to R163: `jalr` reads its target before it links, so with `rs` = x0 it jumps to the old x0; `jr` and `js` set
pc alone; `jsal` links to pc + 2; offsets count from the jump itself. -/
def Obligations.SixteenBitJumpsSetPcAndLink : Prop :=
  ∀ (rs : Reg) (imm : BitVec 11) (s : State),
    HasOpcode (.jalr rs) 8 0b00010110 ∧ HasOpcode (.jr rs) 8 0b00000110 ∧ HasOpcode (.js imm) 5 0b01110 ∧
      HasOpcode (.jsal imm) 5 0b11110 ∧
      exec (.jalr rs) s =
        .next { s with regs := s.regs.set 0 (BitVec.ofNat 16 (s.pc.toNat + 2)), pc := s.reg rs } ∧
      exec (.jr rs) s = .next { s with pc := s.reg rs } ∧
      exec (.js imm) s = .next { s with pc := BitVec.ofInt 16 (s.pc.toNat + imm.toInt) } ∧
      exec (.jsal imm) s =
        .next { s with
          regs := s.regs.set 0 (BitVec.ofNat 16 (s.pc.toNat + 2))
          pc := BitVec.ofInt 16 (s.pc.toNat + imm.toInt) }

/-- R164, R160, R161, R163: a call, then a return through x0 from wherever the callee stands, comes back to the byte
after the call, with every register but x0 as it was. -/
def Obligations.ReturnComesBackAfterTheCall : Prop :=
  ∀ (i : Instr) (s t u : State),
    ((∃ imm, i = .jsal imm) ∨ ∃ rs, i = .jalr rs) →
      exec i s = .next t → (∀ r, u.reg r = t.reg r) →
        ∃ v, exec (.jr 0) u = .next v ∧ v.pc.toNat = (s.pc.toNat + 2) % 65536 ∧
          ∀ r, r ≠ 0 → v.reg r = s.reg r

/-! ## 24-bit loads and stores -/

/-- R131: a word load, at an even address, or at an odd one as `split` or `mask` say, of two bytes that hold
values. -/
def Obligations.LwLoadsTheWordAtItsAddress : Prop :=
  ∀ (data base : Reg) (imm : BitVec 10) (s : State) (w : Word) (b0 b1 : Byte),
    HasOpcode (.lw data base imm) 6 0b010101 ∧
      (WordGoesTo s (eaNumber s base imm) w → Readable s w b0 → Readable s (w + 1) b1 →
        exec (.lw data base imm) s =
          .next (afterWrite s data (wordNumber s.params.dataEndian b0 b1) 3))

/-- R132, R133: a byte load from any address, odd or even, sign-extended by `lb` and zero-extended by `lbu`. -/
def Obligations.LbAndLbuLoadAByte : Prop :=
  ∀ (data base : Reg) (imm : BitVec 10) (s : State) (b : Byte),
    HasOpcode (.lb data base imm) 6 0b100101 ∧ HasOpcode (.lbu data base imm) 6 0b000101 ∧
      (Readable s (eaNumber s base imm) b →
        exec (.lb data base imm) s = .next (afterWrite s data (BitVec.ofInt 16 b.toInt) 3) ∧
        exec (.lbu data base imm) s = .next (afterWrite s data (BitVec.ofNat 16 b.toNat) 3))

/-- R134, with its frame: a word store completes where both its bytes are accessible; it writes those two bytes in
the machine's byte order, and nothing else but pc. -/
def Obligations.SwStoresTheWordAtItsAddress : Prop :=
  ∀ (data base : Reg) (imm : BitVec 10) (s : State) (w : Word),
    HasOpcode (.sw data base imm) 6 0b001101 ∧
      (WordGoesTo s (eaNumber s base imm) w → Accessible s w → Accessible s (w + 1) →
        ∃ t, exec (.sw data base imm) s = .next t ∧
          t.dataByte w.toNat = some (byteNumbers s.params.dataEndian (s.reg data)).1 ∧
          t.dataByte (w + 1).toNat = some (byteNumbers s.params.dataEndian (s.reg data)).2 ∧
          (∀ a : Nat, a ≠ w.toNat → a ≠ (w + 1).toNat → SameByte s t a) ∧
          t.regs = s.regs ∧ t.pc.toNat = (s.pc.toNat + 3) % 65536 ∧ SameLaunch s t ∧ t.draws = s.draws)

/-- R135, with its frame: a byte store writes bits 7:0 of the data register to any accessible address and leaves the
neighbouring byte alone. -/
def Obligations.SbStoresOneByte : Prop :=
  ∀ (data base : Reg) (imm : BitVec 10) (s : State),
    HasOpcode (.sb data base imm) 6 0b110101 ∧
      (base ≠ 0 → (insnOfBytes (encode (.sb data base imm))).extractLsb' 12 4 ≠ 0b0000#4) ∧
      (Accessible s (eaNumber s base imm) →
        ∃ t, exec (.sb data base imm) s = .next t ∧
          t.dataByte (eaNumber s base imm).toNat = some (BitVec.ofNat 8 (s.reg data).toNat) ∧
          (∀ a : Nat, a ≠ (eaNumber s base imm).toNat → SameByte s t a) ∧
          t.regs = s.regs ∧ t.pc.toNat = (s.pc.toNat + 3) % 65536 ∧ SameLaunch s t ∧ t.draws = s.draws)

/-! ## 16-bit integer -/

/-- R140, R141, R148: `sub2` computes rd - rs (C2). -/
def Obligations.Add2Sub2AndMov : Prop :=
  ∀ (rd rs : Reg) (s : State),
    HasOpcode (.add2 rd rs) 8 0b10000000 ∧ HasOpcode (.sub2 rd rs) 8 0b10001000 ∧
      HasOpcode (.mov rd rs) 8 0b11000000 ∧
      exec (.add2 rd rs) s =
        .next (afterWrite s rd (BitVec.ofNat 16 ((s.reg rd).toNat + (s.reg rs).toNat)) 2) ∧
      exec (.sub2 rd rs) s =
        .next (afterWrite s rd (BitVec.ofInt 16 ((s.reg rd).toInt - (s.reg rs).toInt)) 2) ∧
      exec (.mov rd rs) s = .next (afterWrite s rd (s.reg rs) 2)

/-- R142, R143, R144. -/
def Obligations.And2Xor2Or2AreBitwise : Prop :=
  ∀ (rd rs : Reg) (s : State),
    (HasOpcode (.and2 rd rs) 8 0b10010000 ∧
      ∃ v : Word, (∀ k < 16, v.getLsbD k = ((s.reg rd).getLsbD k && (s.reg rs).getLsbD k)) ∧
        exec (.and2 rd rs) s = .next (afterWrite s rd v 2)) ∧
    (HasOpcode (.xor2 rd rs) 8 0b10011000 ∧
      ∃ v : Word, (∀ k < 16, v.getLsbD k = ((s.reg rd).getLsbD k ^^ (s.reg rs).getLsbD k)) ∧
        exec (.xor2 rd rs) s = .next (afterWrite s rd v 2)) ∧
    (HasOpcode (.or2 rd rs) 8 0b10100000 ∧
      ∃ v : Word, (∀ k < 16, v.getLsbD k = ((s.reg rd).getLsbD k || (s.reg rs).getLsbD k)) ∧
        exec (.or2 rd rs) s = .next (afterWrite s rd v 2))

/-- R145, R146, R147, R116: `lsl2`, `lsr2`, `asr2` for every amount and the three values the spec gives
SHIFT_AMOUNT. -/
def Obligations.Lsl2Lsr2Asr2ShiftByARegister : Prop :=
  ∀ (rd rs : Reg) (s : State),
    HasOpcode (.lsl2 rd rs) 8 0b10101000 ∧ HasOpcode (.lsr2 rd rs) 8 0b10110000 ∧
      HasOpcode (.asr2 rd rs) 8 0b10111000 ∧
      ShiftsByRegister (.lsl2 rd rs) .lsl 2 rd (s.reg rd) (s.reg rs) s ∧
      ShiftsByRegister (.lsr2 rd rs) .lsr 2 rd (s.reg rd) (s.reg rs) s ∧
      ShiftsByRegister (.asr2 rd rs) .asr 2 rd (s.reg rd) (s.reg rs) s

/-- R149, R150, R151: `addi2`, `lsi` with a signed immediate, `andi2` with its sign extended. -/
def Obligations.Addi2Andi2AndLsi : Prop :=
  ∀ (rd : Reg) (imm : BitVec 6) (s : State),
    HasOpcode (.addi2 rd imm) 6 0b000010 ∧ HasOpcode (.andi2 rd imm) 6 0b010010 ∧
      HasOpcode (.lsi rd imm) 6 0b110100 ∧
      exec (.addi2 rd imm) s = .next (afterWrite s rd (BitVec.ofInt 16 ((s.reg rd).toNat + imm.toInt)) 2) ∧
      (∃ v : Word, (∀ k < 16, v.getLsbD k = ((s.reg rd).getLsbD k && imm.getLsbD (min k 5))) ∧
        exec (.andi2 rd imm) s = .next (afterWrite s rd v 2)) ∧
      exec (.lsi rd imm) s = .next (afterWrite s rd (BitVec.ofInt 16 imm.toInt) 2)

/-- R153, R154, R155. -/
def Obligations.Lsli2Lsri2Asri2ShiftByAnImmediate : Prop :=
  ∀ (rd : Reg) (n : BitVec 4) (s : State),
    HasOpcode (.lsli2 rd n) 8 0b00101010 ∧ HasOpcode (.lsri2 rd n) 8 0b00110010 ∧
      HasOpcode (.asri2 rd n) 8 0b00111010 ∧
      exec (.lsli2 rd n) s = .next (afterWrite s rd (shiftNumber .lsl (s.reg rd) n.toNat) 2) ∧
      exec (.lsri2 rd n) s = .next (afterWrite s rd (shiftNumber .lsr (s.reg rd) n.toNat) 2) ∧
      exec (.asri2 rd n) s = .next (afterWrite s rd (shiftNumber .asr (s.reg rd) n.toNat) 2)

/-- R152: `lui` puts the six bits in bits 15:10, its immediate read as signed or as unsigned; and the recipe: `lui`
then `addi`, with the immediates R152 computes, builds any 16-bit constant. -/
def Obligations.LuiThenAddiBuildsAnyConstant : Prop :=
  ∀ (rd : Reg) (imm : BitVec 6) (k : Word) (s : State),
    let lo : BitVec 10 := k.extractLsb' 0 10
    let hi : BitVec 6 := BitVec.ofInt 6 (((k.toNat : Int) - lo.toInt) % 65536 / 1024)
    HasOpcode (.lui rd imm) 6 0b000100 ∧
    exec (.lui rd imm) s = .next (afterWrite s rd (BitVec.ofInt 16 (imm.toInt * 1024)) 2) ∧
    exec (.lui rd imm) s = .next (afterWrite s rd (BitVec.ofNat 16 (imm.toNat * 1024)) 2) ∧
    ∃ t u, exec (.lui rd hi) s = .next t ∧ exec (.addi rd rd lo) t = .next u ∧ u.reg rd = k ∧
      (∀ r, r ≠ rd → u.reg r = s.reg r) ∧ u.pc.toNat = (s.pc.toNat + 5) % 65536

/-! ## 16-bit stack access and nop -/

/-- R170: the base is always x1, which is read before `rd` is written. -/
def Obligations.LwspLoadsFromTheStack : Prop :=
  ∀ (rd : Reg) (imm : BitVec 7) (s : State) (w : Word) (b0 b1 : Byte),
    HasOpcode (.lwsp rd imm) 6 0b010100 ∧
      (WordGoesTo s (eaSpNumber s imm) w → Readable s w b0 → Readable s (w + 1) b1 →
        exec (.lwsp rd imm) s = .next (afterWrite s rd (wordNumber s.params.dataEndian b0 b1) 2))

/-- R171, with its frame. -/
def Obligations.SwspStoresToTheStack : Prop :=
  ∀ (rs : Reg) (imm : BitVec 7) (s : State) (w : Word),
    HasOpcode (.swsp rs imm) 6 0b011100 ∧
      (WordGoesTo s (eaSpNumber s imm) w → Accessible s w → Accessible s (w + 1) →
        ∃ t, exec (.swsp rs imm) s = .next t ∧
          t.dataByte w.toNat = some (byteNumbers s.params.dataEndian (s.reg rs)).1 ∧
          t.dataByte (w + 1).toNat = some (byteNumbers s.params.dataEndian (s.reg rs)).2 ∧
          (∀ a : Nat, a ≠ w.toNat → a ≠ (w + 1).toNat → SameByte s t a) ∧
          t.regs = s.regs ∧ t.pc.toNat = (s.pc.toNat + 2) % 65536 ∧ SameLaunch s t ∧ t.draws = s.draws)

/-- R175: `nop` is the 16-bit word 0x0000 and changes pc alone; every other word with insn[7:0] = 0x00 is reserved. -/
def Obligations.NopChangesPcAlone : Prop :=
  encode .nop = [0x00#8, 0x00#8] ∧ decode16 0x0000#16 = some .nop ∧
    (∀ w : BitVec 16, w.extractLsb' 0 8 = 0x00#8 → w.extractLsb' 8 8 ≠ 0x00#8 → decode16 w = none) ∧
    ∀ s : State, exec .nop s = .next { s with pc := BitVec.ofNat 16 (s.pc.toNat + 2) }

/-- R172's push and pop: a word pushed with `addi2 sp, -2; swsp` and popped with `lwsp; addi2 sp, 2` arrives in the
other register, and sp is where it was. -/
def Obligations.PopGivesBackWhatWasPushed : Prop :=
  ∀ (rs rd : Reg) (s : State), rs ≠ 1 → rd ≠ 1 → (s.reg 1).toNat % 2 = 0 →
    Accessible s (s.reg 1 - 2) → Accessible s (s.reg 1 - 1) →
      ∃ s1 s2 s3 s4, exec (.addi2 1 (-2)) s = .next s1 ∧ exec (.swsp rs 0) s1 = .next s2 ∧
        exec (.lwsp rd 0) s2 = .next s3 ∧ exec (.addi2 1 2) s3 = .next s4 ∧
          s4.reg rd = s.reg rs ∧ s4.reg 1 = s.reg 1 ∧ ∀ r, r ≠ rd → s4.reg r = s.reg r

/-! ## Memory -/

/-- R41: a word load after a word store to the same address gives the value stored. -/
def Obligations.LoadAfterStoreGivesTheValue : Prop :=
  ∀ (rs rd base base' : Reg) (imm imm' : BitVec 10) (s t : State),
    exec (.sw rs base imm) s = .next t → eaNumber t base' imm' = eaNumber s base imm →
      ∃ u, exec (.lw rd base' imm') t = .next u ∧ u.reg rd = s.reg rs

/-- R41: a store elsewhere does not disturb a byte: what a byte load gives is what the latest store to that byte
gave it. -/
def Obligations.StoreElsewhereIsNotSeen : Prop :=
  ∀ (i : Instr) (s t : State) (a : Word), exec i s = .next t → a.toNat ∉ storedBytes s i →
    t.readByte a = s.readByte a

/-- R46, R32: after a word store at an even address, byte loads give its bytes in the machine's byte order; after two
byte stores at an even address, a word load joins them. -/
def Obligations.MixedWidthAccessesSeeTheSameBytes : Prop :=
  ∀ (v : Word) (b c : Byte) (s : State) (ea : Word), ea.toNat % 2 = 0 → Accessible s ea → Accessible s (ea + 1) →
    (∃ t, s.writeWord ea v = .next t ∧
      t.readByte ea = .next (byteNumbers s.params.dataEndian v).1 ∧
      t.readByte (ea + 1) = .next (byteNumbers s.params.dataEndian v).2) ∧
    (∃ t u, s.writeByte ea b = .next t ∧ t.writeByte (ea + 1) c = .next u ∧
      u.readWord ea = .next (wordNumber s.params.dataEndian b c))

/-- R36: a word access at an odd address stops under the default, and goes where `split` or `mask` say under these. -/
def Obligations.OddWordAddressFollowsTheParameter : Prop :=
  Params.specDefaults.misalignedWord = .fault ∧
    ∀ (r base : Reg) (imm : BitVec 10) (imm7 : BitVec 7) (s : State),
      (s.params.misalignedWord = .fault →
        ((eaNumber s base imm).toNat % 2 = 1 →
          exec (.lw r base imm) s = .refused (.misalignedFault (eaNumber s base imm)) ∧
          exec (.sw r base imm) s = .refused (.misalignedFault (eaNumber s base imm))) ∧
        ((eaSpNumber s imm7).toNat % 2 = 1 →
          exec (.lwsp r imm7) s = .refused (.misalignedFault (eaSpNumber s imm7)) ∧
          exec (.swsp r imm7) s = .refused (.misalignedFault (eaSpNumber s imm7)))) ∧
      (∀ ea : Word, ea.toNat % 2 = 1 →
        (s.params.misalignedWord = .split → s.wordAddr ea = .next ea) ∧
        (s.params.misalignedWord = .mask → s.wordAddr ea = .next (ea - 1)))

/-- R37, R39, R183 step 7: where the checks on a byte stop, the byte operations stop so and every load and store
executed ends so: at its byte, or at the first of its two bytes that does not pass. A store to a declared byte that holds
no value is allowed and gives it one. -/
def Obligations.AccessFaultOutsideDataMemory : Prop :=
  (∀ (s : State) (a : Word) (b : Byte),
    (s.declared a.toNat = false →
      s.readByte a = .fault (.accessFault a) ∧ s.writeByte a b = .fault (.accessFault a)) ∧
    (Accessible s a → s.dataByte a.toNat = none →
      s.readByte a = .fault (.accessFault a) ∧
        ∃ t, s.writeByte a b = .next t ∧ t.readByte a = .next b)) ∧
    ∀ (i : Instr) (s : State) (d : DataAccess) (r : Res State), dataAccess s i = some d →
      (d.isWord = false → d.StopsAt s d.ea r → exec i s = r) ∧
        (d.isWord = true → ∀ w, WordGoesTo s d.ea w →
          (d.StopsAt s w r → exec i s = r) ∧
            (d.Passes s w → d.StopsAt s (w + 1) r → exec i s = r))

/-- R39: under the default MEM_ORG every data access into IMEM_RANGE is refused (once DMEM_RANGE has been checked,
R183; of `exec`, see `AccessFaultOutsideDataMemory`), and no step changes the image. -/
def Obligations.CodeIsImmutableWhereOrganisationIsOpen : Prop :=
  Params.specDefaults.memOrg = .refuse ∧
    ∀ s : State, s.params.memOrg = .refuse →
      (∀ (a : Word) (b : Byte), s.inCode a.toNat = true → s.declared a.toNat = true →
        s.readByte a = .refused (.refusedCodeAccess a) ∧ s.writeByte a b = .refused (.refusedCodeAccess a)) ∧
      ∀ t, step s = .next t → t.imem = s.imem

/-- R44: under `unified` a store into IMEM_RANGE is seen by the next fetch of that byte; under `split` no step
changes what is fetched. -/
def Obligations.FetchSeesAStoreOnlyWhereMemoryIsUnified : Prop :=
  (∀ (s t : State) (a : Word) (b : Byte), s.params.memOrg = .unified → s.inCode a.toNat = true →
    s.writeByte a b = .next t → t.fetchByte a = .next b) ∧
    (∀ (s t : State) (a : Word), s.params.memOrg = .split → step s = .next t → t.fetchByte a = s.fetchByte a)

/-! ## Stops -/

/-- R182, R183: every fault and refusal of a step is the instruction's at pc and has the cause the spec gives its name:
the bytes of that instruction, its effective address, its amount register, the byte of its access that did not pass.
(An address of IMEM_RANGE without an image byte is FetchFault too, log 4; the invariant, which every launched state has
and every step keeps, rules it out. UnwrittenRegister (R13) is not modelled: log 1.) -/
def Obligations.EveryStopHasItsCause : Prop :=
  ∀ s : State,
    (∀ a, step s = .fault (.fetchFault a) →
      (a = s.pc ∨ a = s.pc + 1 ∨ a = s.pc + 2) ∧ (s.Inv → s.inCode a.toNat = false)) ∧
    (∀ q w, step s = .fault (.illegalInstruction q w) →
      q = s.pc ∧ ∃ bytes, s.fetch = .next bytes ∧ decode s.params bytes = .error (.reserved w)) ∧
    (∀ q v, step s = .refused (.refusedShiftAmount q v) →
      q = s.pc ∧ 16 ≤ v.toNat ∧ s.params.shiftAmount = .refuse ∧
        ∃ i r, s.runs i ∧ amountRegister i = some r ∧ v = s.reg r) ∧
    (∀ a, step s = .refused (.misalignedFault a) →
      a.toNat % 2 = 1 ∧ s.params.misalignedWord = .fault ∧
        ∃ i d, s.runs i ∧ dataAccess s i = some d ∧ d.isWord = true ∧ d.ea = a) ∧
    (∀ a, step s = .fault (.accessFault a) ∨ step s = .refused (.refusedCodeAccess a) →
      ∃ i d, s.runs i ∧ dataAccess s i = some d ∧ a.toNat ∈ d.bytes s ∧ d.StopsAt s a (step s)) ∧
    (∀ r, step s = .refused r →
      (∃ q v, r = .refusedShiftAmount q v) ∨ (∃ a, r = .misalignedFault a) ∨ ∃ a, r = .refusedCodeAccess a)

/-- R180, R182, R191: nothing but memory, and an amount that SHIFT_AMOUNT `refuse` declines to settle (R116), can stop
an instruction: where SHIFT_AMOUNT is `low4` or `full`, every instruction that neither loads nor stores completes, in
every state. That the spec's one other stop, UnwrittenRegister (R13, R182), does not exist, every register holding a
value, is the model's choice, log 1. It completes too where SHIFT_AMOUNT is `free`, which is not the spec's: that a shift
by 16 or more then completes is the model's choice, log 6. -/
def Obligations.NothingElseStopsAnInstruction : Prop :=
  ∀ (i : Instr) (s : State), s.params.shiftAmount ≠ .refuse →
    (∀ d b m, i ≠ .lw d b m ∧ i ≠ .lb d b m ∧ i ≠ .lbu d b m ∧ i ≠ .sw d b m ∧ i ≠ .sb d b m) →
      (∀ r m, i ≠ .lwsp r m ∧ i ≠ .swsp r m) → ∃ t, exec i s = .next t

/-- R183: alignment is checked before the range; the range before the code region; the byte at the address
before the next one. -/
def Obligations.WordStoreChecksInOrder : Prop :=
  ∀ (s : State) (ea v : Word),
    (ea.toNat % 2 = 1 → s.params.misalignedWord = .fault → s.writeWord ea v = .refused (.misalignedFault ea)) ∧
    (∀ w, WordGoesTo s ea w →
      (s.declared w.toNat = false → s.writeWord ea v = .fault (.accessFault w)) ∧
      (s.declared w.toNat = true → s.inCode w.toNat = true → s.params.memOrg = .refuse →
        s.writeWord ea v = .refused (.refusedCodeAccess w)) ∧
      (Accessible s w → s.declared (w + 1).toNat = false → s.writeWord ea v = .fault (.accessFault (w + 1))) ∧
      (Accessible s w → s.declared (w + 1).toNat = true → s.inCode (w + 1).toNat = true →
        s.params.memOrg = .refuse → s.writeWord ea v = .refused (.refusedCodeAccess (w + 1))))

/-! ## Frames -/

/-- R7, R12: an instruction writes no general register but its destination, and x0 for the linking jumps. -/
def Obligations.OnlyDestinationsChange : Prop :=
  ∀ (i : Instr) (s t : State), exec i s = .next t → ∀ r, r ∉ destinations i → t.reg r = s.reg r

/-- R35, R20: an instruction changes no byte of either memory but those it stores to; none at all where it is no
store. -/
def Obligations.OnlyStoredBytesChange : Prop :=
  ∀ (i : Instr) (s t : State), exec i s = .next t → ∀ a : Nat, a ∉ storedBytes s i → SameByte s t a

/-- R3, R203: no instruction changes what the launch fixed; and the model's own counter moves only where a register
shift uses a free value (log 24). -/
def Obligations.LaunchDataNeverChanges : Prop :=
  ∀ (i : Instr) (s t : State), exec i s = .next t →
    SameLaunch s t ∧ (t.draws = s.draws ∨ (t.draws = s.draws + 1 ∧ s.params.shiftAmount = .free))

/-- R8, R16: an instruction that sets no pc advances it by its own length, modulo 65536. -/
def Obligations.StraightLineCodeAdvancesByItsLength : Prop :=
  ∀ (i : Instr) (s t : State), exec i s = .next t → setsPc i = false →
    t.pc.toNat = (s.pc.toNat + (encode i).length) % 65536

/-! ## The step, runs and launches -/

/-- R205: when the bytes at pc decode to `i`, a step is `exec i`. -/
def Obligations.StepRunsTheDecodedInstruction : Prop :=
  ∀ (s : State) (bytes rest : List Byte) (i : Instr),
    s.fetch = .next bytes → decode s.params bytes = .ok (i, rest) → step s = exec i s

/-- R38, R33, R18: the fetch takes three bytes where bit 0 of the first is 1 and two else, wrapping at the top, and is
`FetchFault` at the first byte that IMEM_RANGE does not hold (R183 step 1). "First" is in the order of the fetch, which
goes on from 0xFFFF to 0x0000: deduced, log 25. -/
def Obligations.FetchTakesTheBytesAtPc : Prop :=
  ∀ (s : State) (b0 b1 b2 : Byte),
    let has := fun (a : Word) (b : Byte) => s.inCode a.toNat = true ∧ Memory.read s.imem a.toNat = some b
    (has s.pc b0 → has (s.pc + 1) b1 → b0[0] = false → s.fetch = .next [b0, b1]) ∧
    (has s.pc b0 → has (s.pc + 1) b1 → b0[0] = true → has (s.pc + 2) b2 → s.fetch = .next [b0, b1, b2]) ∧
    (s.inCode s.pc.toNat = false → s.fetch = .fault (.fetchFault s.pc)) ∧
    (has s.pc b0 → s.inCode (s.pc + 1).toNat = false → s.fetch = .fault (.fetchFault (s.pc + 1))) ∧
    (has s.pc b0 → has (s.pc + 1) b1 → b0[0] = true → s.inCode (s.pc + 2).toNat = false →
      s.fetch = .fault (.fetchFault (s.pc + 2)))

/-- R80: a reserved word is `IllegalInstruction(pc, insn)`, whatever the registers and the data hold. -/
def Obligations.ReservedWordIsIllegalInstruction : Prop :=
  ∀ (s : State) (b0 b1 b2 : Byte),
    (s.fetch = .next [b0, b1, b2] → Reserved24 s.params (word24 b0 b1 b2) → b0[0] = true →
      step s = .fault (.illegalInstruction s.pc (word24 b0 b1 b2))) ∧
    (s.fetch = .next [b0, b1] → Reserved16 (word16 b0 b1) → b0[0] = false →
      step s = .fault (.illegalInstruction s.pc ((word16 b0 b1).setWidth 24)))

/-- The model's own test aid, not a rule of the spec (log 4): `withFetchWord` stands for the load of one instruction by a
launch (R203). An instruction of a table row so placed is the one the next step runs (R205). -/
def Obligations.PlacedInstructionRunsNext : Prop :=
  ∀ (s : State) (nbits w : Nat) (i : Instr) (rest : List Byte),
    decode s.params (tableWordBytes nbits w) = .ok (i, rest) →
      step (s.withFetchWord nbits w) = exec i (s.withFetchWord nbits w)

/-- R206: a jump or a taken branch to itself leaves the state as it is, and only an instruction that sets pc can. -/
def Obligations.OnlyAJumpToItselfEndsARun : Prop :=
  (∀ s, exec (.js 0) s = .next s) ∧
    (∀ (r q : Reg) s, s.reg r = s.reg q →
      exec (.beq r q 0) s = .next s ∧ exec (.ble r q 0) s = .next s ∧ exec (.bleu r q 0) s = .next s) ∧
    (∀ (r : Reg) s, s.reg r = s.pc → exec (.jr r) s = .next s) ∧
    ∀ (i : Instr) s, exec i s = .next s → setsPc i = true

/-- R206: such an instruction repeats for ever: from a state at which a run has ended every number of steps leads
back to it. -/
def Obligations.AnEndedRunStaysEnded : Prop :=
  ∀ (s : State) (k : Nat), s.ended = true → Sys2Proof.core.run k s = .next s

/-- The memory keeps its canonical form, the image stays whole, and data memory stays inside DMEM_RANGE: every step
keeps the invariant, from every state that has it. -/
def Obligations.StepKeepsTheInvariant : Prop :=
  ∀ s t : State, s.Inv → step s = .next t → t.Inv

/-- The state after reset has the invariant. -/
def Obligations.ResetHasTheInvariant : Prop := State.reset.Inv

/-- R203, R204: a launch that is not refused starts in a state with the invariant, with pc at RESET_PC, parameters of
R3's sets, the ranges given, every byte of the image at its address, the data bytes given and no other in data memory,
and the registers given. Every other register holds 0x0000: the model's choice (log 1; the spec gives it no value). Of a
byte or register given twice nothing is said here (log 23). The two clauses on data bytes speak of the list `dmem`: inside
IMEM_RANGE under `unified` the image's byte is the one every access finds, whether or not a data byte is given there: the
model's choice (log 9). -/
def Obligations.LaunchStartsWithItsImage : Prop :=
  ∀ (l : Launch) (s : State), l.start = .ok s →
    s.Inv ∧ s.pc = l.resetPc ∧ s.params = l.params ∧ s.params.listed = true ∧ s.inCode s.pc.toNat = true ∧
      s.imemRange = ⟨l.imageBase, l.image.length⟩ ∧ s.dmemRange = l.dmemRange ∧
      (∀ k (h : k < l.image.length), Memory.read s.imem (l.imageBase + k) = some l.image[k]) ∧
      (∀ a b, (a, b) ∈ l.data → (∀ c, (a, c) ∈ l.data → c = b) → Memory.read s.dmem a = some b) ∧
      (∀ a, (∀ b, (a, b) ∉ l.data) → Memory.read s.dmem a = none) ∧
      (∀ r v, (r, v) ∈ l.regs → (∀ u, (r, u) ∈ l.regs → u = v) → s.reg r = v) ∧
      ∀ r, (∀ v, (r, v) ∉ l.regs) → s.reg r = 0x0000#16

/-- R204: what the launch refuses, and that everything else is admitted whose data bytes are bytes of DMEM_RANGE; one
whose are not is no launch of R203, and is refused too (the model's choice, log 23). -/
def Obligations.LaunchRefusesWhatItMust : Prop :=
  ∀ l : Launch,
    (l.MustRefuse → ∃ e, l.start = .error e) ∧
      (¬l.MustRefuse → l.DataDeclared → l.start = .ok l.state) ∧
        (¬l.DataDeclared → ∃ e, l.start = .error e)

/-- R181, R39, R36, R116: the defaults err toward unprovable. Every run that a machine completes whose launch declined
to settle MEM_ORG, MISALIGNED_WORD or SHIFT_AMOUNT is, step for step, a run of the machine with any value of these in
its place (the spec's values, or the model's own `free`: logs 6, 7, 8). -/
def Obligations.UnsettledRunIsARunOfEverySettlement : Prop :=
  ∀ (k : Nat) (s t : State) (q : Params), settles s.params q → Sys2Proof.core.run k s = .next t →
    t.params = s.params ∧ Sys2Proof.core.run k (s.withParams q) = .next (State.withParams t q)

/-- The model's choice (logs 7, 8), not a rule of the spec: MISALIGNED_WORD and MEM_ORG left `free` are one of the
values the spec lists, the same throughout: a machine in a state with them (no launch gives one, R204) steps as that
machine does. -/
def Obligations.FreeParameterIsOneOfTheListedValues : Prop :=
  (∃ m : MisalignedWord, (m = .split ∨ m = .mask) ∧
    ∀ s t : State, s.params.misalignedWord = .free →
      (step s = .next t ↔ t.params = s.params ∧
        step (s.withParams { s.params with misalignedWord := m }) =
          .next (t.withParams { s.params with misalignedWord := m }))) ∧
  (∃ o : MemOrg, (o = .unified ∨ o = .split) ∧
    ∀ s t : State, s.params.memOrg = .free →
      (step s = .next t ↔ t.params = s.params ∧
        step (s.withParams { s.params with memOrg := o }) =
          .next (t.withParams { s.params with memOrg := o })))

/-- R200 for pc and memory (pc is the spec's default 0x0000; no byte holds a value); the registers' value 0 is the
model's choice (log 1), as are the ranges (logs 4, 5) and the free parameters (logs 6, 7, 8). -/
def Obligations.ResetStateIsAsDescribed : Prop :=
  State.reset.pc = 0x0000#16 ∧ (∀ a, Memory.read State.reset.imem a = none) ∧
    (∀ a, Memory.read State.reset.dmem a = none) ∧ (∀ r, State.reset.reg r = 0) ∧
      step State.reset = .fault (.fetchFault 0) ∧
        ∀ a : Word, State.reset.declared a.toNat = true ∧ State.reset.inCode a.toNat = false
end

