-- ==== Sys2Proof/Laws/Decode.lean ====
section
/-! SUPPORT. The fields of a word, taken apart and put together (30_encoding.md R52 to R73). -/

namespace Sys2Proof

/-! ## Bytes and words (R33) -/

/-- A part of a part of a word. -/
theorem extract_extract {n : Nat} (w : BitVec n) {a b c d : Nat} (h : c + d ≤ b) :
    (w.extractLsb' a b).extractLsb' c d = w.extractLsb' (a + c) d := by
  apply BitVec.eq_of_getLsbD_eq
  intro i hi
  simp only [BitVec.getLsbD_extractLsb', hi, decide_true, Bool.true_and]
  have h1 : c + i < b := by omega
  simp [h1, Nat.add_assoc]

/-- Neighbouring parts of a word, joined. -/
theorem extract_append {n : Nat} (w : BitVec n) (lo a b : Nat) :
    w.extractLsb' (lo + b) a ++ w.extractLsb' lo b = w.extractLsb' lo (a + b) :=
  BitVec.extractLsb'_append_extractLsb'_eq_extractLsb' rfl

/-- Two words of one width are equal where all their bits are. -/
theorem extract_full {n : Nat} (w : BitVec n) : w.extractLsb' 0 n = w := BitVec.extractLsb'_eq_self

@[simp] theorem word24_bytes (w : BitVec 24) :
    word24 (w.extractLsb' 0 8) (w.extractLsb' 8 8) (w.extractLsb' 16 8) = w := by
  have h1 : w.extractLsb' 16 8 ++ w.extractLsb' 8 8 = w.extractLsb' 8 16 := extract_append w 8 8 8
  have h2 : w.extractLsb' 8 16 ++ w.extractLsb' 0 8 = w.extractLsb' 0 24 := extract_append w 0 16 8
  unfold word24
  rw [h1]
  exact h2.trans (extract_full w)

@[simp] theorem word16_bytes (w : BitVec 16) : word16 (w.extractLsb' 0 8) (w.extractLsb' 8 8) = w := by
  have h : w.extractLsb' 8 8 ++ w.extractLsb' 0 8 = w.extractLsb' 0 16 := extract_append w 0 8 8
  exact h.trans (extract_full w)

theorem bytes24_word24 (b0 b1 b2 : Byte) : bytes24 (word24 b0 b1 b2) = [b0, b1, b2] := by
  have h0 : ((b2 ++ b1) ++ b0).extractLsb' 0 8 = b0 := by
    rw [BitVec.extractLsb'_append_eq_of_add_le (by omega), extract_full]
  have h1 : ((b2 ++ b1) ++ b0).extractLsb' 8 8 = b1 := by
    rw [BitVec.extractLsb'_append_eq_of_le (by omega), BitVec.extractLsb'_append_eq_of_add_le (by omega)]
    exact extract_full b1
  have h2 : ((b2 ++ b1) ++ b0).extractLsb' 16 8 = b2 := by
    rw [BitVec.extractLsb'_append_eq_of_le (by omega), BitVec.extractLsb'_append_eq_of_le (by omega)]
    exact extract_full b2
  show [((b2 ++ b1) ++ b0).extractLsb' 0 8, ((b2 ++ b1) ++ b0).extractLsb' 8 8,
    ((b2 ++ b1) ++ b0).extractLsb' 16 8] = _
  rw [h0, h1, h2]

theorem bytes16_word16 (b0 b1 : Byte) : bytes16 (word16 b0 b1) = [b0, b1] := by
  have h0 : (b1 ++ b0).extractLsb' 0 8 = b0 := by
    rw [BitVec.extractLsb'_append_eq_of_add_le (by omega), extract_full]
  have h1 : (b1 ++ b0).extractLsb' 8 8 = b1 := by
    rw [BitVec.extractLsb'_append_eq_of_le (by omega)]
    exact extract_full b1
  show [(b1 ++ b0).extractLsb' 0 8, (b1 ++ b0).extractLsb' 8 8] = _
  rw [h0, h1]

/-- Bit 0 of the first byte is bit 0 of the word (R51). -/
theorem byte0_bit0 {n : Nat} (w : BitVec n) : (w.extractLsb' 0 8)[0] = w.getLsbD 0 := by
  simp [BitVec.getElem_extractLsb']

/-- Decoding the three bytes of a word whose bit 0 is 1 (R51). -/
theorem decode_bytes24 (p : Params) (w : BitVec 24) (rest : List Byte) (h : w.getLsbD 0 = true) :
    decode p (bytes24 w ++ rest) =
      match decode24 p w with
      | some i => .ok (i, rest)
      | none => .error (.reserved w) := by
  cases h2 : decode24 p w <;>
    simp only [bytes24, List.cons_append, List.nil_append, decode, byte0_bit0, h, if_true, word24_bytes, h2]

/-- Decoding the two bytes of a word whose bit 0 is 0 (R51). -/
theorem decode_bytes16 (p : Params) (w : BitVec 16) (rest : List Byte) (h : w.getLsbD 0 = false) :
    decode p (bytes16 w ++ rest) =
      match decode16 w with
      | some i => .ok (i, rest)
      | none => .error (.reserved (w.setWidth 24)) := by
  cases h2 : decode16 w <;>
    simp only [bytes16, List.cons_append, List.nil_append, decode, byte0_bit0, h, if_false, Bool.false_eq_true,
      word16_bytes, h2]

@[simp] theorem regField_regBits (r : Reg) : (regBits r).toFin = r := rfl

@[simp] theorem regBits_toFin (x : BitVec 4) : regBits x.toFin = x := rfl

/-! ## The fields of each format's word -/

theorem low_of_append {v w : Nat} (x : BitVec v) (y : BitVec w) : (x ++ y).extractLsb' 0 w = y := by
  rw [BitVec.extractLsb'_append_eq_of_add_le (by omega), extract_full]

theorem high_of_append {v w k n : Nat} (x : BitVec v) (y : BitVec w) (h : w ≤ k) :
    (x ++ y).extractLsb' k n = x.extractLsb' (k - w) n :=
  BitVec.extractLsb'_append_eq_of_le h

/-- Formats R24 and SH24 (R53, R56). -/
theorem encodeR24_fields (op : BitVec 8) (c b a : BitVec 4) :
    ∃ w : BitVec 24, bytes24 ((((0#4 ++ c) ++ b) ++ a) ++ op) = bytes24 w ∧ w.extractLsb' 0 8 = op ∧
      w.extractLsb' 8 4 = a ∧ w.extractLsb' 12 4 = b ∧ w.extractLsb' 16 4 = c ∧ w.extractLsb' 20 4 = 0#4 := by
  refine ⟨_, rfl, low_of_append _ op, ?_, ?_, ?_, ?_⟩
  · exact (high_of_append (((0#4 ++ c) ++ b) ++ a) op (k := 8) (n := 4) (by omega)).trans (low_of_append _ a)
  · exact (high_of_append (((0#4 ++ c) ++ b) ++ a) op (k := 12) (n := 4) (by omega)).trans
      ((high_of_append ((0#4 ++ c) ++ b) a (k := 4) (n := 4) (by omega)).trans (low_of_append _ b))
  · exact (high_of_append (((0#4 ++ c) ++ b) ++ a) op (k := 16) (n := 4) (by omega)).trans
      ((high_of_append ((0#4 ++ c) ++ b) a (k := 8) (n := 4) (by omega)).trans
        ((high_of_append (0#4 ++ c) b (k := 4) (n := 4) (by omega)).trans (low_of_append _ c)))
  · exact (high_of_append (((0#4 ++ c) ++ b) ++ a) op (k := 20) (n := 4) (by omega)).trans
      ((high_of_append ((0#4 ++ c) ++ b) a (k := 12) (n := 4) (by omega)).trans
        ((high_of_append (0#4 ++ c) b (k := 8) (n := 4) (by omega)).trans
          ((high_of_append 0#4 c (k := 4) (n := 4) (by omega)).trans (extract_full 0#4))))

/-- Formats I24, LI24, B24, L24 and S24 (R54, R55, R57 to R59, R68). -/
theorem encodeI24_fields (op : BitVec 6) (at12 at8 : Reg) (imm : BitVec 10) :
    ∃ w : BitVec 24, encodeI24 op at12 at8 imm = bytes24 w ∧ w.extractLsb' 0 6 = op ∧
      w.extractLsb' 8 4 = regBits at8 ∧ w.extractLsb' 12 4 = regBits at12 ∧ simm10Field w = imm := by
  refine ⟨_, rfl, low_of_append _ op, ?_, ?_, ?_⟩
  · exact (high_of_append (((imm.extractLsb' 0 8 ++ regBits at12) ++ regBits at8) ++ imm.extractLsb' 8 2) op
        (k := 8) (n := 4) (by omega)).trans
      ((high_of_append ((imm.extractLsb' 0 8 ++ regBits at12) ++ regBits at8) (imm.extractLsb' 8 2)
        (k := 2) (n := 4) (by omega)).trans (low_of_append _ _))
  · exact (high_of_append (((imm.extractLsb' 0 8 ++ regBits at12) ++ regBits at8) ++ imm.extractLsb' 8 2) op
        (k := 12) (n := 4) (by omega)).trans
      ((high_of_append ((imm.extractLsb' 0 8 ++ regBits at12) ++ regBits at8) (imm.extractLsb' 8 2)
        (k := 6) (n := 4) (by omega)).trans
      ((high_of_append (imm.extractLsb' 0 8 ++ regBits at12) (regBits at8) (k := 4) (n := 4) (by omega)).trans
        (low_of_append _ _)))
  · have h1 : ((((imm.extractLsb' 0 8 ++ regBits at12) ++ regBits at8) ++ imm.extractLsb' 8 2) ++ op).extractLsb' 6 2
        = imm.extractLsb' 8 2 := (high_of_append _ op (by omega)).trans (low_of_append _ _)
    have h2 : ((((imm.extractLsb' 0 8 ++ regBits at12) ++ regBits at8) ++ imm.extractLsb' 8 2) ++ op).extractLsb' 16 8
        = imm.extractLsb' 0 8 :=
      (high_of_append _ op (by omega)).trans ((high_of_append _ _ (by omega)).trans
        ((high_of_append _ _ (by omega)).trans ((high_of_append _ _ (by omega)).trans (extract_full _))))
    have h3 : imm.extractLsb' 8 2 ++ imm.extractLsb' 0 8 = imm :=
      (extract_append imm 0 2 8).trans (extract_full imm)
    exact (congrArg₂ (fun (x : BitVec 2) (y : BitVec 8) => x ++ y) h1 h2).trans h3

/-- Format J24 (R60, R73). -/
theorem encodeJ24_fields (op : BitVec 6) (imm : BitVec 16) :
    ∃ w : BitVec 24, encodeJ24 op imm = bytes24 w ∧ w.extractLsb' 0 6 = op ∧ w.extractLsb' 6 2 = 0#2 ∧
      simm16Field w = imm := by
  refine ⟨_, rfl, low_of_append _ op, ?_, ?_⟩
  · exact (high_of_append (imm ++ 0#2) op (k := 6) (n := 2) (by omega)).trans (low_of_append _ _)
  · exact (high_of_append (imm ++ 0#2) op (k := 8) (n := 16) (by omega)).trans
      ((high_of_append imm 0#2 (k := 2) (n := 16) (by omega)).trans (extract_full imm))

/-- Formats R16, SH16 and JR16 (R61, R63, R64). -/
theorem encodeR16_fields (op : BitVec 8) (b a : BitVec 4) :
    ∃ w : BitVec 16, bytes16 ((b ++ a) ++ op) = bytes16 w ∧ w.extractLsb' 0 8 = op ∧
      w.extractLsb' 8 4 = a ∧ w.extractLsb' 12 4 = b := by
  refine ⟨_, rfl, low_of_append _ op, ?_, ?_⟩
  · exact (high_of_append (b ++ a) op (k := 8) (n := 4) (by omega)).trans (low_of_append _ _)
  · exact (high_of_append (b ++ a) op (k := 12) (n := 4) (by omega)).trans
      ((high_of_append b a (k := 4) (n := 4) (by omega)).trans (extract_full b))

/-- Formats I16 (R62, R69), LSP16 and SSP16 (R66, R72): the three fields above a six-bit opcode. -/
theorem encodeI16_fields (op : BitVec 6) (c a : BitVec 4) (b : BitVec 2) :
    ∃ w : BitVec 16, bytes16 (((c ++ a) ++ b) ++ op) = bytes16 w ∧ w.extractLsb' 0 6 = op ∧
      w.extractLsb' 6 2 = b ∧ w.extractLsb' 8 4 = a ∧ w.extractLsb' 12 4 = c := by
  refine ⟨_, rfl, low_of_append _ op, ?_, ?_, ?_⟩
  · exact (high_of_append ((c ++ a) ++ b) op (k := 6) (n := 2) (by omega)).trans (low_of_append _ _)
  · exact (high_of_append ((c ++ a) ++ b) op (k := 8) (n := 4) (by omega)).trans
      ((high_of_append (c ++ a) b (k := 2) (n := 4) (by omega)).trans (low_of_append _ _))
  · exact (high_of_append ((c ++ a) ++ b) op (k := 12) (n := 4) (by omega)).trans
      ((high_of_append (c ++ a) b (k := 6) (n := 4) (by omega)).trans
        ((high_of_append c a (k := 4) (n := 4) (by omega)).trans (extract_full c)))

/-- `simm6`, put together from its two parts (R69). -/
theorem simm6_parts (imm : BitVec 6) : imm.extractLsb' 4 2 ++ imm.extractLsb' 0 4 = imm :=
  (extract_append imm 0 2 4).trans (extract_full imm)

/-- An even `uimm7`, put together from its two stored parts and the 0 that is not stored (R72). -/
theorem uimm7_parts (imm : BitVec 7) (h : imm[0] = false) :
    (imm.extractLsb' 5 2 ++ imm.extractLsb' 1 4) ++ 0#1 = imm := by
  have h0 : imm.extractLsb' 0 1 = 0#1 := by
    apply BitVec.eq_of_getLsbD_eq
    intro i hi
    have hi0 : i = 0 := by omega
    subst hi0
    simpa using h
  have h1 : imm.extractLsb' 5 2 ++ imm.extractLsb' 1 4 = imm.extractLsb' 1 6 := extract_append imm 1 2 4
  have h2 : imm.extractLsb' 1 6 ++ imm.extractLsb' 0 1 = imm.extractLsb' 0 7 := extract_append imm 0 6 1
  rw [← h0, h1]
  exact h2.trans (extract_full imm)

/-- Format JS16 (R65, R70). -/
theorem encodeJS16_fields (op : BitVec 5) (imm : BitVec 11) :
    ∃ w : BitVec 16, encodeJS16 op imm = bytes16 w ∧ w.extractLsb' 0 5 = op ∧ simm11Field w = imm := by
  refine ⟨_, rfl, low_of_append _ op, ?_⟩
  exact (high_of_append imm op (k := 5) (n := 11) (by omega)).trans (extract_full imm)

/-! ## An opcode's bits, and masks -/

/-- The six bits of function and group are those of an eight-bit opcode. -/
theorem low6_of_low8 {n : Nat} {w : BitVec n} {op : BitVec 8} (h : w.extractLsb' 0 8 = op) :
    w.extractLsb' 0 6 = op.extractLsb' 0 6 := by
  rw [← h, extract_extract w (by omega)]

/-- insn[7:6] is that of an eight-bit opcode. -/
theorem mid2_of_low8 {n : Nat} {w : BitVec n} {op : BitVec 8} (h : w.extractLsb' 0 8 = op) :
    w.extractLsb' 6 2 = op.extractLsb' 6 2 := by
  rw [← h, extract_extract w (by omega)]

/-- Bit 0 of a word is bit 0 of its opcode (R51). -/
theorem bit0_of_low {n k : Nat} {w : BitVec n} {op : BitVec (k + 1)} (h : w.extractLsb' 0 (k + 1) = op) :
    w.getLsbD 0 = op.getLsbD 0 := by
  rw [← h]; simp

/-- A field that a mask keeps whole is the masked word's. -/
theorem extract_of_masked {n k l : Nat} {w m v : BitVec n} (h : w &&& m = v)
    (hm : m.extractLsb' k l = BitVec.allOnes l) : w.extractLsb' k l = v.extractLsb' k l := by
  rw [← h, BitVec.extractLsb'_and, hm, BitVec.and_allOnes]

/-- Two words are the same under a mask where they agree on the bits it keeps. -/
theorem masked_eq_masked {n : Nat} {w m v : BitVec n}
    (h : ∀ i < n, m.getLsbD i = true → w.getLsbD i = v.getLsbD i) : w &&& m = v &&& m := by
  apply BitVec.eq_of_getLsbD_eq
  intro i hi
  rw [BitVec.getLsbD_and, BitVec.getLsbD_and]
  cases hm : m.getLsbD i
  · simp
  · rw [h i hi hm]

/-- A bit of a word, from a field it lies in. -/
theorem bit_of_extract {n k l : Nat} {w v : BitVec n} (h : w.extractLsb' k l = v.extractLsb' k l) {i : Nat}
    (h1 : k ≤ i) (h2 : i < k + l) : w.getLsbD i = v.getLsbD i := by
  have h3 := congrArg (fun x => x.getLsbD (i - k)) h
  have h4 : i - k < l := by omega
  have h5 : k + (i - k) = i := by omega
  simpa [h4, h5] using h3

end Sys2Proof
end

