-- ==== Sys2Proof/Laws/Memory.lean ====
section
/-! SUPPORT. The laws of a byte map: read after write, and that every operation keeps the canonical form. -/

namespace Sys2Proof.Machine

@[simp] theorem Memory.read_nil (a : Nat) : Memory.read [] a = none := rfl

/-- A read after a write: the byte written at that address, every other address as before (R41). -/
theorem Memory.read_write (m : Memory) (a k : Nat) (v : Byte) :
    Memory.read (Memory.write m a v) k = if k = a then some v else Memory.read m k := by
  induction m with
  | nil => by_cases h : k = a <;> simp [Memory.write, Memory.read, h]
  | cons c m ih =>
    obtain ⟨j, b⟩ := c
    by_cases h1 : a < j
    · by_cases h : k = a <;> simp [Memory.write, Memory.read, h1, h]
    · by_cases h2 : a = j
      · subst h2
        by_cases h : k = a <;> simp [Memory.write, Memory.read, h]
      · by_cases h3 : k = j
        · subst h3
          simp [Memory.write, Memory.read, h1, h2, Ne.symm h2]
        · simp [Memory.write, Memory.read, h1, h2, h3, ih]

@[simp] theorem Memory.read_write_self (m : Memory) (a : Nat) (v : Byte) :
    Memory.read (Memory.write m a v) a = some v := by
  simp [Memory.read_write]

theorem Memory.read_write_other (m : Memory) {a k : Nat} (v : Byte) (h : k ≠ a) :
    Memory.read (Memory.write m a v) k = Memory.read m k := by
  simp [Memory.read_write, h]

@[simp] theorem Memory.wf_nil : Memory.wf [] = true := rfl

/-- A rising map still rises after a write at or above its lower bound. -/
theorem Memory.risingFrom_write {m : Memory} {lo a : Nat} (v : Byte) (hm : Memory.risingFrom lo m = true)
    (hlo : lo ≤ a) (ha : a < 65536) : Memory.risingFrom lo (Memory.write m a v) = true := by
  induction m generalizing lo with
  | nil => simp [Memory.write, Memory.risingFrom, hlo, ha]
  | cons c m ih =>
    obtain ⟨j, b⟩ := c
    simp only [Memory.risingFrom, Bool.and_eq_true, decide_eq_true_eq] at hm
    obtain ⟨⟨h1, h2⟩, h3⟩ := hm
    unfold Memory.write
    split
    · rename_i h
      simp only [Memory.risingFrom, Bool.and_eq_true, decide_eq_true_eq]
      exact ⟨⟨hlo, ha⟩, ⟨by omega, h2⟩, h3⟩
    · split
      · rename_i h
        subst h
        simp only [Memory.risingFrom, Bool.and_eq_true, decide_eq_true_eq]
        exact ⟨⟨h1, h2⟩, h3⟩
      · simp only [Memory.risingFrom, Bool.and_eq_true, decide_eq_true_eq]
        exact ⟨⟨h1, h2⟩, ih h3 (by omega)⟩

/-- A write at a 16-bit address keeps the canonical form. -/
theorem Memory.wf_write {m : Memory} {a : Nat} (v : Byte) (hm : Memory.wf m = true) (ha : a < 65536) :
    Memory.wf (Memory.write m a v) = true :=
  Memory.risingFrom_write v hm (Nat.zero_le a) ha

/-- Writing a list of bytes keeps the canonical form. -/
theorem Memory.wf_writeAll {m : Memory} (bs : List Byte) (a : Nat) (hm : Memory.wf m = true) :
    Memory.wf (Memory.writeAll m a bs) = true := by
  induction bs generalizing m a with
  | nil => exact hm
  | cons b bs ih => exact ih _ (Memory.wf_write b hm (Nat.mod_lt _ (by decide)))

/-- Bytes written from `a` on leave an address below `a` as it was. -/
theorem Memory.read_writeAll_below (m : Memory) (bs : List Byte) {a k : Nat} (hk : k < a)
    (ha : a + bs.length ≤ 65536) : Memory.read (Memory.writeAll m a bs) k = Memory.read m k := by
  induction bs generalizing m a with
  | nil => rfl
  | cons b bs ih =>
    simp only [List.length_cons] at ha
    have h : a % 65536 = a := Nat.mod_eq_of_lt (by omega)
    rw [Memory.writeAll, ih _ (by omega) (by omega), h, Memory.read_write_other _ _ (by omega)]

/-- What is read after a list of bytes is written below the top of the address space. -/
theorem Memory.read_writeAll (m : Memory) (bs : List Byte) {a : Nat} (k : Nat) (ha : a + bs.length ≤ 65536) :
    Memory.read (Memory.writeAll m a bs) k =
      if a ≤ k ∧ k < a + bs.length then bs[k - a]? else Memory.read m k := by
  induction bs generalizing m a with
  | nil => simp [Memory.writeAll]
  | cons b bs ih =>
    simp only [List.length_cons] at ha ⊢
    have h : a % 65536 = a := Nat.mod_eq_of_lt (by omega)
    rw [Memory.writeAll, ih _ (by omega), h]
    by_cases h1 : k = a
    · subst h1; simp
    · rw [Memory.read_write_other _ _ h1]
      by_cases h2 : a ≤ k ∧ k < a + (bs.length + 1)
      · have h3 : a + 1 ≤ k ∧ k < a + 1 + bs.length := by omega
        have h4 : k - a = (k - (a + 1)) + 1 := by omega
        rw [if_pos h2, if_pos h3, h4, List.getElem?_cons_succ]
      · have h3 : ¬(a + 1 ≤ k ∧ k < a + 1 + bs.length) := by omega
        rw [if_neg h2, if_neg h3]

theorem rangeHas_iff (r : AddrRange) (a : Nat) : rangeHas r a = true ↔ r.base ≤ a ∧ a < r.base + r.len := by
  simp [rangeHas]

end Sys2Proof.Machine
end

