-- ==== Sys2Proof/Laws/State.lean ====
section
/-! SUPPORT. One lemma per field per update of State, each true by definition, and the register file's own laws. -/

namespace Sys2Proof.Machine

@[simp] theorem State.setReg_pc (s : State) (r : Reg) (v : Word) : (s.setReg r v).pc = s.pc := rfl
@[simp] theorem State.setReg_imem (s : State) (r : Reg) (v : Word) : (s.setReg r v).imem = s.imem := rfl
@[simp] theorem State.setReg_dmem (s : State) (r : Reg) (v : Word) : (s.setReg r v).dmem = s.dmem := rfl
@[simp] theorem State.setReg_imemRange (s : State) (r : Reg) (v : Word) : (s.setReg r v).imemRange = s.imemRange := rfl
@[simp] theorem State.setReg_dmemRange (s : State) (r : Reg) (v : Word) : (s.setReg r v).dmemRange = s.dmemRange := rfl
@[simp] theorem State.setReg_params (s : State) (r : Reg) (v : Word) : (s.setReg r v).params = s.params := rfl
@[simp] theorem State.setReg_draws (s : State) (r : Reg) (v : Word) : (s.setReg r v).draws = s.draws := rfl

@[simp] theorem State.setPc_imem (s : State) (t : Word) : (s.setPc t).imem = s.imem := rfl
@[simp] theorem State.setPc_dmem (s : State) (t : Word) : (s.setPc t).dmem = s.dmem := rfl
@[simp] theorem State.setPc_imemRange (s : State) (t : Word) : (s.setPc t).imemRange = s.imemRange := rfl
@[simp] theorem State.setPc_dmemRange (s : State) (t : Word) : (s.setPc t).dmemRange = s.dmemRange := rfl
@[simp] theorem State.setPc_params (s : State) (t : Word) : (s.setPc t).params = s.params := rfl
@[simp] theorem State.setPc_draws (s : State) (t : Word) : (s.setPc t).draws = s.draws := rfl
@[simp] theorem State.setPc_regs (s : State) (t : Word) : (s.setPc t).regs = s.regs := rfl

@[simp] theorem State.advance_imem (s : State) (len : Word) : (s.advance len).imem = s.imem := rfl
@[simp] theorem State.advance_dmem (s : State) (len : Word) : (s.advance len).dmem = s.dmem := rfl
@[simp] theorem State.advance_imemRange (s : State) (len : Word) : (s.advance len).imemRange = s.imemRange := rfl
@[simp] theorem State.advance_dmemRange (s : State) (len : Word) : (s.advance len).dmemRange = s.dmemRange := rfl
@[simp] theorem State.advance_params (s : State) (len : Word) : (s.advance len).params = s.params := rfl
@[simp] theorem State.advance_draws (s : State) (len : Word) : (s.advance len).draws = s.draws := rfl
@[simp] theorem State.advance_regs (s : State) (len : Word) : (s.advance len).regs = s.regs := rfl

@[simp] theorem State.draw_pc (s : State) : (s.draw).pc = s.pc := rfl
@[simp] theorem State.draw_imem (s : State) : (s.draw).imem = s.imem := rfl
@[simp] theorem State.draw_dmem (s : State) : (s.draw).dmem = s.dmem := rfl
@[simp] theorem State.draw_imemRange (s : State) : (s.draw).imemRange = s.imemRange := rfl
@[simp] theorem State.draw_dmemRange (s : State) : (s.draw).dmemRange = s.dmemRange := rfl
@[simp] theorem State.draw_params (s : State) : (s.draw).params = s.params := rfl
@[simp] theorem State.draw_regs (s : State) : (s.draw).regs = s.regs := rfl

@[simp] theorem State.putByte_pc (s : State) (a : Nat) (b : Byte) : (s.putByte a b).pc = s.pc := rfl
@[simp] theorem State.putByte_imemRange (s : State) (a : Nat) (b : Byte) : (s.putByte a b).imemRange = s.imemRange := rfl
@[simp] theorem State.putByte_dmemRange (s : State) (a : Nat) (b : Byte) : (s.putByte a b).dmemRange = s.dmemRange := rfl
@[simp] theorem State.putByte_params (s : State) (a : Nat) (b : Byte) : (s.putByte a b).params = s.params := rfl
@[simp] theorem State.putByte_draws (s : State) (a : Nat) (b : Byte) : (s.putByte a b).draws = s.draws := rfl
@[simp] theorem State.putByte_regs (s : State) (a : Nat) (b : Byte) : (s.putByte a b).regs = s.regs := rfl

@[simp] theorem State.putWord_pc (s : State) (a v : Word) : (s.putWord a v).pc = s.pc := rfl
@[simp] theorem State.putWord_imemRange (s : State) (a v : Word) : (s.putWord a v).imemRange = s.imemRange := rfl
@[simp] theorem State.putWord_dmemRange (s : State) (a v : Word) : (s.putWord a v).dmemRange = s.dmemRange := rfl
@[simp] theorem State.putWord_params (s : State) (a v : Word) : (s.putWord a v).params = s.params := rfl
@[simp] theorem State.putWord_draws (s : State) (a v : Word) : (s.putWord a v).draws = s.draws := rfl
@[simp] theorem State.putWord_regs (s : State) (a v : Word) : (s.putWord a v).regs = s.regs := rfl

@[simp] theorem State.setPc_pc (s : State) (t : Word) : (s.setPc t).pc = t := rfl
@[simp] theorem State.advance_pc (s : State) (len : Word) : (s.advance len).pc = s.pc + len := rfl
@[simp] theorem State.draw_draws (s : State) : (s.draw).draws = s.draws + 1 := rfl

/-! ## What each operation of State reads, unchanged by the updates that do not touch it -/

@[simp] theorem State.reg_setPc (s : State) (t : Word) (r : Reg) : (s.setPc t).reg r = s.reg r := rfl
@[simp] theorem State.reg_advance (s : State) (len : Word) (r : Reg) : (s.advance len).reg r = s.reg r := rfl
@[simp] theorem State.reg_draw (s : State) (r : Reg) : (s.draw).reg r = s.reg r := rfl
@[simp] theorem State.reg_putByte (s : State) (k : Nat) (b : Byte) (r : Reg) : (s.putByte k b).reg r = s.reg r := rfl
@[simp] theorem State.reg_putWord (s : State) (k v : Word) (r : Reg) : (s.putWord k v).reg r = s.reg r := rfl

@[simp] theorem State.declared_setReg (s : State) (q : Reg) (v : Word) (a : Nat) : (s.setReg q v).declared a = s.declared a := rfl
@[simp] theorem State.declared_setPc (s : State) (t : Word) (a : Nat) : (s.setPc t).declared a = s.declared a := rfl
@[simp] theorem State.declared_advance (s : State) (len : Word) (a : Nat) : (s.advance len).declared a = s.declared a := rfl
@[simp] theorem State.declared_draw (s : State) (a : Nat) : (s.draw).declared a = s.declared a := rfl
@[simp] theorem State.declared_putByte (s : State) (k : Nat) (b : Byte) (a : Nat) : (s.putByte k b).declared a = s.declared a := rfl
@[simp] theorem State.declared_putWord (s : State) (k v : Word) (a : Nat) : (s.putWord k v).declared a = s.declared a := rfl

@[simp] theorem State.inCode_setReg (s : State) (q : Reg) (v : Word) (a : Nat) : (s.setReg q v).inCode a = s.inCode a := rfl
@[simp] theorem State.inCode_setPc (s : State) (t : Word) (a : Nat) : (s.setPc t).inCode a = s.inCode a := rfl
@[simp] theorem State.inCode_advance (s : State) (len : Word) (a : Nat) : (s.advance len).inCode a = s.inCode a := rfl
@[simp] theorem State.inCode_draw (s : State) (a : Nat) : (s.draw).inCode a = s.inCode a := rfl
@[simp] theorem State.inCode_putByte (s : State) (k : Nat) (b : Byte) (a : Nat) : (s.putByte k b).inCode a = s.inCode a := rfl
@[simp] theorem State.inCode_putWord (s : State) (k v : Word) (a : Nat) : (s.putWord k v).inCode a = s.inCode a := rfl

@[simp] theorem State.codeShared_setReg (s : State) (q : Reg) (v : Word) : (s.setReg q v).codeShared = s.codeShared := rfl
@[simp] theorem State.codeShared_setPc (s : State) (t : Word) : (s.setPc t).codeShared = s.codeShared := rfl
@[simp] theorem State.codeShared_advance (s : State) (len : Word) : (s.advance len).codeShared = s.codeShared := rfl
@[simp] theorem State.codeShared_draw (s : State)  : (s.draw).codeShared = s.codeShared := rfl
@[simp] theorem State.codeShared_putByte (s : State) (k : Nat) (b : Byte) : (s.putByte k b).codeShared = s.codeShared := rfl
@[simp] theorem State.codeShared_putWord (s : State) (k v : Word) : (s.putWord k v).codeShared = s.codeShared := rfl

@[simp] theorem State.toImage_setReg (s : State) (q : Reg) (v : Word) (a : Nat) : (s.setReg q v).toImage a = s.toImage a := rfl
@[simp] theorem State.toImage_setPc (s : State) (t : Word) (a : Nat) : (s.setPc t).toImage a = s.toImage a := rfl
@[simp] theorem State.toImage_advance (s : State) (len : Word) (a : Nat) : (s.advance len).toImage a = s.toImage a := rfl
@[simp] theorem State.toImage_draw (s : State) (a : Nat) : (s.draw).toImage a = s.toImage a := rfl
@[simp] theorem State.toImage_putByte (s : State) (k : Nat) (b : Byte) (a : Nat) : (s.putByte k b).toImage a = s.toImage a := rfl
@[simp] theorem State.toImage_putWord (s : State) (k v : Word) (a : Nat) : (s.putWord k v).toImage a = s.toImage a := rfl

@[simp] theorem State.dataByte_setReg (s : State) (q : Reg) (v : Word) (a : Nat) : (s.setReg q v).dataByte a = s.dataByte a := rfl
@[simp] theorem State.dataByte_setPc (s : State) (t : Word) (a : Nat) : (s.setPc t).dataByte a = s.dataByte a := rfl
@[simp] theorem State.dataByte_advance (s : State) (len : Word) (a : Nat) : (s.advance len).dataByte a = s.dataByte a := rfl
@[simp] theorem State.dataByte_draw (s : State) (a : Nat) : (s.draw).dataByte a = s.dataByte a := rfl

@[simp] theorem State.checkByte_setReg (s : State) (q : Reg) (v : Word) (w : Word) : (s.setReg q v).checkByte w = s.checkByte w := rfl
@[simp] theorem State.checkByte_setPc (s : State) (t : Word) (w : Word) : (s.setPc t).checkByte w = s.checkByte w := rfl
@[simp] theorem State.checkByte_advance (s : State) (len : Word) (w : Word) : (s.advance len).checkByte w = s.checkByte w := rfl
@[simp] theorem State.checkByte_draw (s : State) (w : Word) : (s.draw).checkByte w = s.checkByte w := rfl
@[simp] theorem State.checkByte_putByte (s : State) (k : Nat) (b : Byte) (w : Word) : (s.putByte k b).checkByte w = s.checkByte w := rfl
@[simp] theorem State.checkByte_putWord (s : State) (k v : Word) (w : Word) : (s.putWord k v).checkByte w = s.checkByte w := rfl

@[simp] theorem State.wordAddr_setReg (s : State) (q : Reg) (v : Word) (w : Word) : (s.setReg q v).wordAddr w = s.wordAddr w := rfl
@[simp] theorem State.wordAddr_setPc (s : State) (t : Word) (w : Word) : (s.setPc t).wordAddr w = s.wordAddr w := rfl
@[simp] theorem State.wordAddr_advance (s : State) (len : Word) (w : Word) : (s.advance len).wordAddr w = s.wordAddr w := rfl
@[simp] theorem State.wordAddr_draw (s : State) (w : Word) : (s.draw).wordAddr w = s.wordAddr w := rfl
@[simp] theorem State.wordAddr_putByte (s : State) (k : Nat) (b : Byte) (w : Word) : (s.putByte k b).wordAddr w = s.wordAddr w := rfl
@[simp] theorem State.wordAddr_putWord (s : State) (k v : Word) (w : Word) : (s.putWord k v).wordAddr w = s.wordAddr w := rfl

@[simp] theorem State.readByte_setReg (s : State) (q : Reg) (v : Word) (w : Word) : (s.setReg q v).readByte w = s.readByte w := rfl
@[simp] theorem State.readByte_setPc (s : State) (t : Word) (w : Word) : (s.setPc t).readByte w = s.readByte w := rfl
@[simp] theorem State.readByte_advance (s : State) (len : Word) (w : Word) : (s.advance len).readByte w = s.readByte w := rfl
@[simp] theorem State.readByte_draw (s : State) (w : Word) : (s.draw).readByte w = s.readByte w := rfl

@[simp] theorem State.readWord_setReg (s : State) (q : Reg) (v : Word) (w : Word) : (s.setReg q v).readWord w = s.readWord w := rfl
@[simp] theorem State.readWord_setPc (s : State) (t : Word) (w : Word) : (s.setPc t).readWord w = s.readWord w := rfl
@[simp] theorem State.readWord_advance (s : State) (len : Word) (w : Word) : (s.advance len).readWord w = s.readWord w := rfl
@[simp] theorem State.readWord_draw (s : State) (w : Word) : (s.draw).readWord w = s.readWord w := rfl

@[simp] theorem State.fetchByte_setReg (s : State) (q : Reg) (v : Word) (w : Word) : (s.setReg q v).fetchByte w = s.fetchByte w := rfl
@[simp] theorem State.fetchByte_setPc (s : State) (t : Word) (w : Word) : (s.setPc t).fetchByte w = s.fetchByte w := rfl
@[simp] theorem State.fetchByte_advance (s : State) (len : Word) (w : Word) : (s.advance len).fetchByte w = s.fetchByte w := rfl
@[simp] theorem State.fetchByte_draw (s : State) (w : Word) : (s.draw).fetchByte w = s.fetchByte w := rfl

/-! ## The register file (R10, R11) -/

@[simp] theorem State.reg_setReg_self (s : State) (r : Reg) (v : Word) : (s.setReg r v).reg r = v := by
  simp [State.reg, State.setReg]

theorem State.reg_setReg_other (s : State) {r q : Reg} (v : Word) (h : q ≠ r) :
    (s.setReg r v).reg q = s.reg q := by
  have h' : r.val ≠ q.val := fun e => h (Fin.ext e.symm)
  simp [State.reg, State.setReg, h']

theorem State.reg_setReg (s : State) (r q : Reg) (v : Word) :
    (s.setReg r v).reg q = if q = r then v else s.reg q := by
  by_cases h : q = r
  · subst h; simp
  · simp [h, State.reg_setReg_other s v h]

/-- Two states with the same registers by number have the same register file. -/
theorem State.regs_ext {s t : State} (h : ∀ r, s.reg r = t.reg r) : s.regs = t.regs := by
  apply Vector.ext
  intro i hi
  exact h ⟨i, hi⟩

end Sys2Proof.Machine
end

