-- ==== Sys2Proof/Laws/Ops.lean ====
section
/-! SUPPORT. What each shared operation can do, said once: a caller cites these and does not unfold the
operation. -/

namespace Sys2Proof.Machine

/-! ## andThen -/

@[simp] theorem andThen_next {α β : Type} (a : α) (f : α → Res β) : andThen (.next a) f = f a := rfl

@[simp] theorem andThen_fault {α β : Type} (e : Fault) (f : α → Res β) : andThen (.fault e) f = .fault e := rfl

@[simp] theorem andThen_refused {α β : Type} (e : Refusal) (f : α → Res β) :
    andThen (.refused e) f = .refused e := rfl

/-- A sequence goes on exactly where both parts do. -/
theorem andThen_eq_next {α β : Type} {r : Res α} {f : α → Res β} {b : β} :
    andThen r f = .next b ↔ ∃ a, r = .next a ∧ f a = .next b := by
  cases r <;> simp [andThen]

/-- A sequence faults where its first part does, or its second part does. -/
theorem andThen_eq_fault {α β : Type} {r : Res α} {f : α → Res β} {e : Fault} :
    andThen r f = .fault e ↔ r = .fault e ∨ ∃ a, r = .next a ∧ f a = .fault e := by
  cases r <;> simp [andThen]

/-- A sequence is refused where its first part is, or its second part is. -/
theorem andThen_eq_refused {α β : Type} {r : Res α} {f : α → Res β} {e : Refusal} :
    andThen r f = .refused e ↔ r = .refused e ∨ ∃ a, r = .next a ∧ f a = .refused e := by
  cases r <;> simp [andThen]

/-! ## Data memory -/

/-- When a byte access passes its checks (R34, R35, R39). -/
theorem checkByte_eq_next {s : State} {a : Word} {u : Unit} :
    s.checkByte a = .next u ↔
      s.declared a.toNat = true ∧ ¬(s.inCode a.toNat = true ∧ s.params.memOrg = .refuse) := by
  unfold State.checkByte
  by_cases h : s.declared a.toNat <;> by_cases h2 : s.inCode a.toNat = true <;>
    by_cases h3 : s.params.memOrg = .refuse <;> simp [h, h2, h3]

/-- When a byte access is a fault, and which (R37). -/
theorem checkByte_eq_fault {s : State} {a : Word} {e : Fault} :
    s.checkByte a = .fault e ↔ s.declared a.toNat = false ∧ e = .accessFault a := by
  unfold State.checkByte
  by_cases h : s.declared a.toNat <;> by_cases h2 : s.inCode a.toNat = true <;>
    by_cases h3 : s.params.memOrg = .refuse <;> simp [h, h2, h3, eq_comm (b := e)]

/-- When a byte access is refused, and how (R39): a declared address is needed first (R183). -/
theorem checkByte_eq_refused {s : State} {a : Word} {e : Refusal} :
    s.checkByte a = .refused e ↔
      s.declared a.toNat = true ∧ s.inCode a.toNat = true ∧ s.params.memOrg = .refuse ∧
        e = .refusedCodeAccess a := by
  unfold State.checkByte
  by_cases h : s.declared a.toNat <;> by_cases h2 : s.inCode a.toNat = true <;>
    by_cases h3 : s.params.memOrg = .refuse <;> simp [h, h2, h3, eq_comm (b := e)]

/-- What a byte read answers when it answers (R34). -/
theorem readByte_eq_next {s : State} {a : Word} {b : Byte} :
    s.readByte a = .next b ↔ s.checkByte a = .next () ∧ s.dataByte a.toNat = some b := by
  unfold State.readByte
  rw [andThen_eq_next]
  constructor
  · rintro ⟨⟨⟩, h1, h2⟩
    refine ⟨h1, ?_⟩
    cases h : s.dataByte a.toNat <;> simp_all
  · rintro ⟨h1, h2⟩
    exact ⟨(), h1, by simp [h2]⟩

/-- When a byte read faults: outside DMEM_RANGE, or the byte holds no value (R34, R37). -/
theorem readByte_eq_fault {s : State} {a : Word} {e : Fault} :
    s.readByte a = .fault e ↔
      e = .accessFault a ∧ (s.declared a.toNat = false ∨ s.checkByte a = .next () ∧ s.dataByte a.toNat = none) := by
  unfold State.readByte
  rw [andThen_eq_fault, checkByte_eq_fault]
  constructor
  · rintro (⟨h1, h2⟩ | ⟨⟨⟩, h1, h2⟩)
    · exact ⟨h2, .inl h1⟩
    · cases h : s.dataByte a.toNat <;> simp_all
  · rintro ⟨rfl, h1 | ⟨h1, h2⟩⟩
    · exact .inl ⟨h1, rfl⟩
    · exact .inr ⟨(), h1, by simp [h2]⟩

/-- When a byte read is refused: as its check is. -/
theorem readByte_eq_refused {s : State} {a : Word} {e : Refusal} :
    s.readByte a = .refused e ↔ s.checkByte a = .refused e := by
  unfold State.readByte
  rw [andThen_eq_refused]
  constructor
  · rintro (h | ⟨⟨⟩, _, h⟩)
    · exact h
    · cases h' : s.dataByte a.toNat <;> simp_all
  · exact .inl

/-- What a byte write answers when it answers (R35). -/
theorem writeByte_eq_next {s t : State} {a : Word} {b : Byte} :
    s.writeByte a b = .next t ↔ s.checkByte a = .next () ∧ t = s.putByte a.toNat b := by
  unfold State.writeByte
  rw [andThen_eq_next]
  constructor
  · rintro ⟨⟨⟩, h1, h2⟩
    exact ⟨h1, by simpa using h2.symm⟩
  · rintro ⟨h1, rfl⟩
    exact ⟨(), h1, rfl⟩

/-- An even word address is used as it is (R36). -/
theorem wordAddr_even {s : State} {a : Word} (h : a[0] = false) : s.wordAddr a = .next a := by
  simp only [State.wordAddr, h]
  rfl

/-- The address a word access can go to: the one given, or that one with bit 0 cleared (R36). -/
theorem wordAddr_eq_next {s : State} {a w : Word} (h : s.wordAddr a = .next w) : w = a ∨ w = clearBit0 a := by
  unfold State.wordAddr at h
  split at h
  · cases hm : s.params.misalignedWord <;> simp only [hm] at h
    · cases h
    · simp at h; exact .inl h.symm
    · simp at h; exact .inr h.symm
    · cases hc : Config.misalignedMasks <;> simp [hc] at h
      · exact .inl h.symm
      · exact .inr h.symm
  · simp at h; exact .inl h.symm

/-- A word address is never a fault. -/
theorem wordAddr_ne_fault {s : State} {a : Word} {e : Fault} : s.wordAddr a ≠ .fault e := by
  unfold State.wordAddr
  split
  · cases s.params.misalignedWord <;> simp
  · simp

/-- When a word address is refused (R36). -/
theorem wordAddr_eq_refused {s : State} {a : Word} {e : Refusal} :
    s.wordAddr a = .refused e ↔
      a[0] = true ∧ s.params.misalignedWord = .fault ∧ e = .misalignedFault a := by
  unfold State.wordAddr
  by_cases h : a[0]
  · cases hm : s.params.misalignedWord <;> simp [h, eq_comm (b := e)]
  · simp [h]

/-- What a word read answers when it answers (R34). -/
theorem readWord_eq_next {s : State} {a v : Word} :
    s.readWord a = .next v ↔
      ∃ w b0 b1, s.wordAddr a = .next w ∧ s.readByte w = .next b0 ∧ s.readByte (w + 1#16) = .next b1 ∧
        v = joinBytes s.params.dataEndian b0 b1 := by
  simp only [State.readWord, andThen_eq_next, Host.Outcome.next.injEq]
  constructor
  · rintro ⟨w, h1, b0, h2, b1, h3, h4⟩
    exact ⟨w, b0, b1, h1, h2, h3, h4.symm⟩
  · rintro ⟨w, b0, b1, h1, h2, h3, h4⟩
    exact ⟨w, h1, b0, h2, b1, h3, h4.symm⟩

/-- What a word write answers when it answers (R35). -/
theorem writeWord_eq_next {s t : State} {a v : Word} :
    s.writeWord a v = .next t ↔
      ∃ w, s.wordAddr a = .next w ∧ s.checkByte w = .next () ∧ s.checkByte (w + 1#16) = .next () ∧
        t = s.putWord w v := by
  simp only [State.writeWord, andThen_eq_next, Host.Outcome.next.injEq]
  constructor
  · rintro ⟨w, h1, ⟨⟩, h2, ⟨⟩, h3, h4⟩
    exact ⟨w, h1, h2, h3, h4.symm⟩
  · rintro ⟨w, h1, h2, h3, h4⟩
    exact ⟨w, h1, (), h2, (), h3, h4.symm⟩

/-! ## How a data access stops (R183) -/

/-- A check that passes has one answer only. -/
theorem exists_eq_next_unit {r : Res Unit} : (∃ u, r = .next u) ↔ r = .next () :=
  ⟨fun ⟨_, h⟩ => h, fun h => ⟨(), h⟩⟩

/-- A byte write faults as its check does. -/
theorem writeByte_eq_fault {s : State} {a : Word} {b : Byte} {e : Fault} :
    s.writeByte a b = .fault e ↔ s.checkByte a = .fault e := by
  simp [State.writeByte, andThen_eq_fault]

/-- A byte write is refused as its check is. -/
theorem writeByte_eq_refused {s : State} {a : Word} {b : Byte} {e : Refusal} :
    s.writeByte a b = .refused e ↔ s.checkByte a = .refused e := by
  simp [State.writeByte, andThen_eq_refused]

/-- A word read faults at the first of its two bytes whose read faults. -/
theorem readWord_eq_fault {s : State} {a : Word} {e : Fault} :
    s.readWord a = .fault e ↔
      ∃ w, s.wordAddr a = .next w ∧
        (s.readByte w = .fault e ∨ ∃ b, s.readByte w = .next b ∧ s.readByte (w + 1#16) = .fault e) := by
  simp [State.readWord, andThen_eq_fault, wordAddr_ne_fault]

/-- A word read is refused as its address is, or at the first of its two bytes whose read is refused. -/
theorem readWord_eq_refused {s : State} {a : Word} {e : Refusal} :
    s.readWord a = .refused e ↔
      s.wordAddr a = .refused e ∨ ∃ w, s.wordAddr a = .next w ∧
        (s.readByte w = .refused e ∨ ∃ b, s.readByte w = .next b ∧ s.readByte (w + 1#16) = .refused e) := by
  simp [State.readWord, andThen_eq_refused]

/-- A word write faults at the first of its two bytes whose check faults. -/
theorem writeWord_eq_fault {s : State} {a v : Word} {e : Fault} :
    s.writeWord a v = .fault e ↔
      ∃ w, s.wordAddr a = .next w ∧
        (s.checkByte w = .fault e ∨ s.checkByte w = .next () ∧ s.checkByte (w + 1#16) = .fault e) := by
  simp [State.writeWord, andThen_eq_fault, wordAddr_ne_fault, exists_eq_next_unit]

/-- A word write is refused as its address is, or at the first of its two bytes whose check is refused. -/
theorem writeWord_eq_refused {s : State} {a v : Word} {e : Refusal} :
    s.writeWord a v = .refused e ↔
      s.wordAddr a = .refused e ∨ ∃ w, s.wordAddr a = .next w ∧
        (s.checkByte w = .refused e ∨ s.checkByte w = .next () ∧ s.checkByte (w + 1#16) = .refused e) := by
  simp [State.writeWord, andThen_eq_refused, exists_eq_next_unit]

/-! ## What a write of bytes leaves -/

/-- A byte write, read back through the image's map. -/
theorem putByte_read_imem (s : State) (a k : Nat) (b : Byte) :
    Memory.read (s.putByte a b).imem k =
      if k = a ∧ s.toImage a = true then some b else Memory.read s.imem k := by
  unfold State.putByte
  by_cases h : s.toImage a = true <;> by_cases hk : k = a <;> simp [h, hk, Memory.read_write]

/-- A byte write, read back through data memory's map. -/
theorem putByte_read_dmem (s : State) (a k : Nat) (b : Byte) :
    Memory.read (s.putByte a b).dmem k =
      if k = a ∧ s.toImage a = false then some b else Memory.read s.dmem k := by
  unfold State.putByte
  by_cases h : s.toImage a = true <;> by_cases hk : k = a <;> simp [h, hk, Memory.read_write]

/-- A byte write, read back as data: the byte written there, every other byte as before (R35, R41). -/
theorem dataByte_putByte (s : State) (a k : Nat) (b : Byte) :
    (s.putByte a b).dataByte k = if k = a then some b else s.dataByte k := by
  unfold State.dataByte
  rw [State.toImage_putByte, putByte_read_imem, putByte_read_dmem]
  by_cases hk : k = a
  · subst hk; by_cases h : s.toImage k = true <;> simp [h]
  · simp [hk]

/-- The two bytes of a word have different addresses. -/
theorem toNat_ne_toNat_add_one (a : Word) : (a + 1#16).toNat ≠ a.toNat := by
  have := a.isLt
  rw [BitVec.toNat_add]
  simp
  omega

/-- A word write, read back as data (R35, R46). -/
theorem dataByte_putWord (s : State) (a v : Word) (k : Nat) :
    (s.putWord a v).dataByte k =
      if k = (a + 1#16).toNat then some (secondByte s.params.dataEndian v)
      else if k = a.toNat then some (firstByte s.params.dataEndian v)
      else s.dataByte k := by
  unfold State.putWord
  rw [dataByte_putByte, dataByte_putByte]

/-- A word write leaves both maps alone at every other address. -/
theorem putWord_read_other (s : State) (a v : Word) {k : Nat} (h0 : k ≠ a.toNat) (h1 : k ≠ (a + 1#16).toNat) :
    Memory.read (s.putWord a v).imem k = Memory.read s.imem k ∧
      Memory.read (s.putWord a v).dmem k = Memory.read s.dmem k := by
  simp only [State.putWord, putByte_read_imem, putByte_read_dmem, h0, h1, false_and, if_false, and_self]

/-- A word is its high byte before its low byte. -/
theorem extract_append_extract (v : Word) : v.extractLsb' 8 8 ++ v.extractLsb' 0 8 = v := by
  apply BitVec.eq_of_getLsbD_eq
  intro i hi
  rw [BitVec.getLsbD_append]
  split
  · simp [*]
  · rw [BitVec.getLsbD_extractLsb', Nat.add_sub_cancel' (by omega)]
    simp; omega

/-- The bytes of a word, joined again, are the word (R32). -/
@[simp] theorem joinBytes_first_second (e : DataEndian) (v : Word) :
    joinBytes e (firstByte e v) (secondByte e v) = v := by
  cases e <;> exact extract_append_extract v

/-! ## How an instruction ends -/

/-- A register write and the advance (R7, R8): always completes. -/
@[simp] theorem writeReg_eq (len : Word) (rd : Reg) (v : Word) (s : State) :
    writeReg len rd v s = .next ((s.setReg rd v).advance len) := rfl

/-- A jump that writes no register: always completes. -/
@[simp] theorem jumpTo_eq (t : Word) (s : State) : jumpTo t s = .next (s.setPc t) := rfl

/-- A linking jump (R12): always completes. -/
@[simp] theorem linkAndJump_eq (link t : Word) (s : State) :
    linkAndJump link t s = .next ((s.setReg Reg.ra link).setPc t) := rfl

/-- A conditional branch (R120): always completes. -/
@[simp] theorem branch_eq (taken : Bool) (imm : BitVec 10) (s : State) :
    branch taken imm s = .next (s.setPc (if taken then s.pc + sext imm else s.pc + 3#16)) := rfl

/-- What a register shift answers when it answers (R116, log 6). -/
theorem shiftByReg_eq_next {op : ShiftOp} {len : Word} {rd : Reg} {a v : Word} {s t : State}
    (h : shiftByReg op len rd a v s = .next t) :
    (∃ x, t = (s.setReg rd x).advance len) ∨
      (16 ≤ v.toNat ∧ s.params.shiftAmount = .free ∧
        t = (s.draw.setReg rd (Config.freeValue s.draws)).advance len) := by
  unfold shiftByReg at h
  split at h
  · exact .inl ⟨_, by simpa [writeReg] using h.symm⟩
  · rename_i hv
    cases hm : s.params.shiftAmount <;> simp only [hm, writeReg] at h
    · cases h
    · exact .inl ⟨_, by simpa using h.symm⟩
    · exact .inl ⟨_, by simpa using h.symm⟩
    · exact .inr ⟨by omega, rfl, by simpa using h.symm⟩

/-- What a word load answers when it answers (R131, R170). -/
theorem loadWord_eq_next {len : Word} {rd : Reg} {ea : Word} {s t : State} :
    loadWord len rd ea s = .next t ↔ ∃ v, s.readWord ea = .next v ∧ t = (s.setReg rd v).advance len := by
  simp only [loadWord, andThen_eq_next, writeReg, Host.Outcome.next.injEq, eq_comm (b := t)]

/-- What a byte load answers when it answers (R132, R133). -/
theorem loadByte_eq_next {len : Word} {ext : Byte → Word} {rd : Reg} {ea : Word} {s t : State} :
    loadByte len ext rd ea s = .next t ↔ ∃ b, s.readByte ea = .next b ∧ t = (s.setReg rd (ext b)).advance len := by
  simp only [loadByte, andThen_eq_next, writeReg, Host.Outcome.next.injEq, eq_comm (b := t)]

/-- What a word store answers when it answers (R134, R171). -/
theorem storeWord_eq_next {len ea v : Word} {s t : State} :
    storeWord len ea v s = .next t ↔
      ∃ w, s.wordAddr ea = .next w ∧ s.checkByte w = .next () ∧ s.checkByte (w + 1#16) = .next () ∧
        t = (s.putWord w v).advance len := by
  simp only [storeWord, andThen_eq_next, writeWord_eq_next, Host.Outcome.next.injEq]
  constructor
  · rintro ⟨_, ⟨w, h1, h2, h3, rfl⟩, h4⟩
    exact ⟨w, h1, h2, h3, h4.symm⟩
  · rintro ⟨w, h1, h2, h3, rfl⟩
    exact ⟨_, ⟨w, h1, h2, h3, rfl⟩, rfl⟩

/-- What a byte store answers when it answers (R135). -/
theorem storeByte_eq_next {len ea : Word} {b : Byte} {s t : State} :
    storeByte len ea b s = .next t ↔ s.checkByte ea = .next () ∧ t = (s.putByte ea.toNat b).advance len := by
  simp only [storeByte, andThen_eq_next, writeByte_eq_next, Host.Outcome.next.injEq]
  constructor
  · rintro ⟨_, ⟨h1, rfl⟩, h2⟩
    exact ⟨h1, h2.symm⟩
  · rintro ⟨h1, rfl⟩
    exact ⟨_, ⟨h1, rfl⟩, rfl⟩

/-! ## How an instruction stops -/

/-- A word load stops as its read does. -/
theorem loadWord_eq_fault {len : Word} {rd : Reg} {ea : Word} {s : State} {e : Fault} :
    loadWord len rd ea s = .fault e ↔ s.readWord ea = .fault e := by
  simp [loadWord, andThen_eq_fault]

theorem loadWord_eq_refused {len : Word} {rd : Reg} {ea : Word} {s : State} {e : Refusal} :
    loadWord len rd ea s = .refused e ↔ s.readWord ea = .refused e := by
  simp [loadWord, andThen_eq_refused]

/-- A byte load stops as its read does. -/
theorem loadByte_eq_fault {len : Word} {ext : Byte → Word} {rd : Reg} {ea : Word} {s : State} {e : Fault} :
    loadByte len ext rd ea s = .fault e ↔ s.readByte ea = .fault e := by
  simp [loadByte, andThen_eq_fault]

theorem loadByte_eq_refused {len : Word} {ext : Byte → Word} {rd : Reg} {ea : Word} {s : State} {e : Refusal} :
    loadByte len ext rd ea s = .refused e ↔ s.readByte ea = .refused e := by
  simp [loadByte, andThen_eq_refused]

/-- A word store stops as its write does. -/
theorem storeWord_eq_fault {len ea v : Word} {s : State} {e : Fault} :
    storeWord len ea v s = .fault e ↔ s.writeWord ea v = .fault e := by
  simp [storeWord, andThen_eq_fault]

theorem storeWord_eq_refused {len ea v : Word} {s : State} {e : Refusal} :
    storeWord len ea v s = .refused e ↔ s.writeWord ea v = .refused e := by
  simp [storeWord, andThen_eq_refused]

/-- A byte store stops as its write does. -/
theorem storeByte_eq_fault {len ea : Word} {b : Byte} {s : State} {e : Fault} :
    storeByte len ea b s = .fault e ↔ s.writeByte ea b = .fault e := by
  simp [storeByte, andThen_eq_fault]

theorem storeByte_eq_refused {len ea : Word} {b : Byte} {s : State} {e : Refusal} :
    storeByte len ea b s = .refused e ↔ s.writeByte ea b = .refused e := by
  simp [storeByte, andThen_eq_refused]

/-- A register shift never faults. -/
theorem shiftByReg_ne_fault {op : ShiftOp} {len : Word} {rd : Reg} {a v : Word} {s : State} {e : Fault} :
    shiftByReg op len rd a v s ≠ .fault e := by
  unfold shiftByReg
  split
  · simp
  · cases s.params.shiftAmount <;> simp

/-- When a register shift is refused, and how (R116). -/
theorem shiftByReg_eq_refused {op : ShiftOp} {len : Word} {rd : Reg} {a v : Word} {s : State} {e : Refusal} :
    shiftByReg op len rd a v s = .refused e ↔
      16 ≤ v.toNat ∧ s.params.shiftAmount = .refuse ∧ e = .refusedShiftAmount s.pc v := by
  unfold shiftByReg
  by_cases h : v.toNat < 16
  · simp [h, Nat.not_le.2 h]
  · cases hm : s.params.shiftAmount <;> simp [h, Nat.not_lt.1 h, eq_comm (b := e)]

end Sys2Proof.Machine
end

