-- ==== Sys2Proof/Laws/Fetch.lean ====
section
/-! SUPPORT. What a fetch and a step can do, said once. -/

namespace Sys2Proof.Machine

/-- What a byte fetch answers when it answers (R38). -/
theorem fetchByte_eq_next {s : State} {a : Word} {b : Byte} :
    s.fetchByte a = .next b ↔ s.inCode a.toNat = true ∧ Memory.read s.imem a.toNat = some b := by
  unfold State.fetchByte
  cases h : s.inCode a.toNat <;> cases h2 : Memory.read s.imem a.toNat <;> simp

/-- When a byte fetch is a fault, and which (R38). -/
theorem fetchByte_eq_fault {s : State} {a : Word} {e : Fault} :
    s.fetchByte a = .fault e ↔
      (s.inCode a.toNat = false ∨ Memory.read s.imem a.toNat = none) ∧ e = .fetchFault a := by
  unfold State.fetchByte
  cases h : s.inCode a.toNat <;> cases h2 : Memory.read s.imem a.toNat <;> simp [eq_comm (b := e)]

/-- A byte fetch is never refused. -/
theorem fetchByte_ne_refused {s : State} {a : Word} {e : Refusal} : s.fetchByte a ≠ .refused e := by
  unfold State.fetchByte
  cases h : s.inCode a.toNat <;> cases h2 : Memory.read s.imem a.toNat <;> simp

/-- What a fetch answers when it answers: three bytes where bit 0 of the first is 1, two else (R38, R51). -/
theorem fetch_eq_next {s : State} {bytes : List Byte} :
    s.fetch = .next bytes ↔
      ∃ b0 b1, s.fetchByte s.pc = .next b0 ∧ s.fetchByte (s.pc + 1#16) = .next b1 ∧
        if b0[0] then ∃ b2, s.fetchByte (s.pc + 2#16) = .next b2 ∧ bytes = [b0, b1, b2]
        else bytes = [b0, b1] := by
  simp only [State.fetch, andThen_eq_next]
  constructor
  · rintro ⟨b0, h0, b1, h1, h⟩
    refine ⟨b0, b1, h0, h1, ?_⟩
    split at h
    · rw [andThen_eq_next] at h
      obtain ⟨b2, h2, h3⟩ := h
      rw [if_pos (by assumption)]
      exact ⟨b2, h2, by simpa using h3.symm⟩
    · rw [if_neg (by assumption)]
      simpa using h.symm
  · rintro ⟨b0, b1, h0, h1, h⟩
    refine ⟨b0, h0, b1, h1, ?_⟩
    split at h
    · obtain ⟨b2, h2, rfl⟩ := h
      rw [if_pos (by assumption), h2, andThen_next]
    · rw [if_neg (by assumption), h]

/-- What a step answers when it answers: what the decoded instruction does (R205). -/
theorem step_eq_next {s t : State} :
    step s = .next t ↔
      ∃ bytes i rest, s.fetch = .next bytes ∧ decode s.params bytes = .ok (i, rest) ∧ exec i s = .next t := by
  unfold step
  rw [andThen_eq_next]
  constructor
  · rintro ⟨bytes, h1, h2⟩
    split at h2
    · rename_i i rest h3
      exact ⟨bytes, i, rest, h1, h3, h2⟩
    · cases h2
  · rintro ⟨bytes, i, rest, h1, h2, h3⟩
    exact ⟨bytes, h1, by simp only [h2]; exact h3⟩

/-- A fetch faults at the first byte whose fetch faults (R38, R183). -/
theorem fetch_eq_fault {s : State} {e : Fault} :
    s.fetch = .fault e ↔
      s.fetchByte s.pc = .fault e ∨ ∃ b0, s.fetchByte s.pc = .next b0 ∧
        (s.fetchByte (s.pc + 1#16) = .fault e ∨ ∃ b1, s.fetchByte (s.pc + 1#16) = .next b1 ∧
          b0[0] = true ∧ s.fetchByte (s.pc + 2#16) = .fault e) := by
  simp only [State.fetch, andThen_eq_fault]
  refine or_congr_right (exists_congr fun b0 => and_congr_right fun _ => or_congr_right
    (exists_congr fun b1 => and_congr_right fun _ => ?_))
  split <;> simp_all [andThen_eq_fault]

/-- A fetch is never refused. -/
theorem fetch_ne_refused {s : State} {e : Refusal} : s.fetch ≠ .refused e := by
  simp only [State.fetch, ne_eq, andThen_eq_refused, fetchByte_ne_refused, false_or, not_exists, not_and]
  intro b0 _ b1 _
  split <;> simp [andThen_eq_refused, fetchByte_ne_refused]

/-- When a step faults: in the fetch, at a reserved word, or as the decoded instruction does (R183, R205). -/
theorem step_eq_fault {s : State} {e : Fault} :
    step s = .fault e ↔
      s.fetch = .fault e ∨ ∃ bytes, s.fetch = .next bytes ∧
        ((∃ r, decode s.params bytes = .error r ∧ e = .illegalInstruction s.pc (insnOfBytes bytes)) ∨
          ∃ i rest, decode s.params bytes = .ok (i, rest) ∧ exec i s = .fault e) := by
  unfold step
  rw [andThen_eq_fault]
  refine or_congr_right (exists_congr fun bytes => and_congr_right fun _ => ?_)
  rcases decode s.params bytes with r | ⟨i, rest⟩ <;> simp [eq_comm (b := e)]

/-- A step is refused only as the decoded instruction is (R182). -/
theorem step_eq_refused {s : State} {e : Refusal} :
    step s = .refused e ↔
      ∃ bytes i rest, s.fetch = .next bytes ∧ decode s.params bytes = .ok (i, rest) ∧ exec i s = .refused e := by
  unfold step
  rw [andThen_eq_refused]
  simp only [fetch_ne_refused, false_or]
  refine exists_congr fun bytes => ?_
  rcases decode s.params bytes with r | ⟨i, rest⟩ <;> simp

end Sys2Proof.Machine
end

