-- ==== Sys2Proof/Laws/PerInstr.lean ====
section
/-! SUPPORT. Statements made once per instruction. -/

namespace Sys2Proof.Laws

/-- The length in bytes that opcode_table.json gives the instruction's row (R50): 29 rows of 24 bits, 23 of 16. -/
def rowBytes : Instr → Nat
  | .add .. | .sub .. | .and .. | .xor .. | .or .. | .lsl .. | .lsr .. | .asr .. => 3
  | .addi .. | .andi .. | .xori .. | .ori .. | .li .. | .lsli .. | .lsri .. | .asri .. => 3
  | .beq .. | .bne .. | .blt .. | .bltu .. | .ble .. | .bleu .. | .j .. | .jal .. => 3
  | .lw .. | .lb .. | .lbu .. | .sw .. | .sb .. => 3
  | .mov .. | .add2 .. | .sub2 .. | .and2 .. | .xor2 .. | .or2 .. | .lsl2 .. | .lsr2 .. | .asr2 .. => 2
  | .addi2 .. | .andi2 .. | .lsi .. | .lui .. | .lsli2 .. | .lsri2 .. | .asri2 .. => 2
  | .jalr .. | .jr .. | .js .. | .jsal .. | .lwsp .. | .swsp .. | .nop => 2

/-- An instruction's encoding has the length of its row. -/
def LengthOfRow.Statement (i : Instr) : Prop := (encode i).length = rowBytes i

theorem LengthOfRow.add (rd rs1 rs2 : Reg) : LengthOfRow.Statement (.add rd rs1 rs2) := rfl
theorem LengthOfRow.sub (rd rs1 rs2 : Reg) : LengthOfRow.Statement (.sub rd rs1 rs2) := rfl
theorem LengthOfRow.and (rd rs1 rs2 : Reg) : LengthOfRow.Statement (.and rd rs1 rs2) := rfl
theorem LengthOfRow.xor (rd rs1 rs2 : Reg) : LengthOfRow.Statement (.xor rd rs1 rs2) := rfl
theorem LengthOfRow.or (rd rs1 rs2 : Reg) : LengthOfRow.Statement (.or rd rs1 rs2) := rfl
theorem LengthOfRow.lsl (rd rs1 rs2 : Reg) : LengthOfRow.Statement (.lsl rd rs1 rs2) := rfl
theorem LengthOfRow.lsr (rd rs1 rs2 : Reg) : LengthOfRow.Statement (.lsr rd rs1 rs2) := rfl
theorem LengthOfRow.asr (rd rs1 rs2 : Reg) : LengthOfRow.Statement (.asr rd rs1 rs2) := rfl
theorem LengthOfRow.addi (rd rs1 : Reg) (simm10 : BitVec 10) : LengthOfRow.Statement (.addi rd rs1 simm10) := rfl
theorem LengthOfRow.andi (rd rs1 : Reg) (simm10 : BitVec 10) : LengthOfRow.Statement (.andi rd rs1 simm10) := rfl
theorem LengthOfRow.xori (rd rs1 : Reg) (simm10 : BitVec 10) : LengthOfRow.Statement (.xori rd rs1 simm10) := rfl
theorem LengthOfRow.ori (rd rs1 : Reg) (simm10 : BitVec 10) : LengthOfRow.Statement (.ori rd rs1 simm10) := rfl
theorem LengthOfRow.li (rd : Reg) (simm10 : BitVec 10) : LengthOfRow.Statement (.li rd simm10) := rfl
theorem LengthOfRow.lsli (rd rs1 : Reg) (uimm4 : BitVec 4) : LengthOfRow.Statement (.lsli rd rs1 uimm4) := rfl
theorem LengthOfRow.lsri (rd rs1 : Reg) (uimm4 : BitVec 4) : LengthOfRow.Statement (.lsri rd rs1 uimm4) := rfl
theorem LengthOfRow.asri (rd rs1 : Reg) (uimm4 : BitVec 4) : LengthOfRow.Statement (.asri rd rs1 uimm4) := rfl
theorem LengthOfRow.beq (rs1 rs2 : Reg) (simm10 : BitVec 10) : LengthOfRow.Statement (.beq rs1 rs2 simm10) := rfl
theorem LengthOfRow.bne (rs1 rs2 : Reg) (simm10 : BitVec 10) : LengthOfRow.Statement (.bne rs1 rs2 simm10) := rfl
theorem LengthOfRow.blt (rs1 rs2 : Reg) (simm10 : BitVec 10) : LengthOfRow.Statement (.blt rs1 rs2 simm10) := rfl
theorem LengthOfRow.bltu (rs1 rs2 : Reg) (simm10 : BitVec 10) : LengthOfRow.Statement (.bltu rs1 rs2 simm10) := rfl
theorem LengthOfRow.ble (rs1 rs2 : Reg) (simm10 : BitVec 10) : LengthOfRow.Statement (.ble rs1 rs2 simm10) := rfl
theorem LengthOfRow.bleu (rs1 rs2 : Reg) (simm10 : BitVec 10) : LengthOfRow.Statement (.bleu rs1 rs2 simm10) := rfl
theorem LengthOfRow.j (simm16 : BitVec 16) : LengthOfRow.Statement (.j simm16) := rfl
theorem LengthOfRow.jal (simm16 : BitVec 16) : LengthOfRow.Statement (.jal simm16) := rfl
theorem LengthOfRow.lw (data base : Reg) (simm10 : BitVec 10) : LengthOfRow.Statement (.lw data base simm10) := rfl
theorem LengthOfRow.lb (data base : Reg) (simm10 : BitVec 10) : LengthOfRow.Statement (.lb data base simm10) := rfl
theorem LengthOfRow.lbu (data base : Reg) (simm10 : BitVec 10) : LengthOfRow.Statement (.lbu data base simm10) := rfl
theorem LengthOfRow.sw (data base : Reg) (simm10 : BitVec 10) : LengthOfRow.Statement (.sw data base simm10) := rfl
theorem LengthOfRow.sb (data base : Reg) (simm10 : BitVec 10) : LengthOfRow.Statement (.sb data base simm10) := rfl
theorem LengthOfRow.mov (rd rs : Reg) : LengthOfRow.Statement (.mov rd rs) := rfl
theorem LengthOfRow.add2 (rd rs : Reg) : LengthOfRow.Statement (.add2 rd rs) := rfl
theorem LengthOfRow.sub2 (rd rs : Reg) : LengthOfRow.Statement (.sub2 rd rs) := rfl
theorem LengthOfRow.and2 (rd rs : Reg) : LengthOfRow.Statement (.and2 rd rs) := rfl
theorem LengthOfRow.xor2 (rd rs : Reg) : LengthOfRow.Statement (.xor2 rd rs) := rfl
theorem LengthOfRow.or2 (rd rs : Reg) : LengthOfRow.Statement (.or2 rd rs) := rfl
theorem LengthOfRow.lsl2 (rd rs : Reg) : LengthOfRow.Statement (.lsl2 rd rs) := rfl
theorem LengthOfRow.lsr2 (rd rs : Reg) : LengthOfRow.Statement (.lsr2 rd rs) := rfl
theorem LengthOfRow.asr2 (rd rs : Reg) : LengthOfRow.Statement (.asr2 rd rs) := rfl
theorem LengthOfRow.addi2 (rd : Reg) (simm6 : BitVec 6) : LengthOfRow.Statement (.addi2 rd simm6) := rfl
theorem LengthOfRow.andi2 (rd : Reg) (simm6 : BitVec 6) : LengthOfRow.Statement (.andi2 rd simm6) := rfl
theorem LengthOfRow.lsi (rd : Reg) (simm6 : BitVec 6) : LengthOfRow.Statement (.lsi rd simm6) := rfl
theorem LengthOfRow.lui (rd : Reg) (simm6 : BitVec 6) : LengthOfRow.Statement (.lui rd simm6) := rfl
theorem LengthOfRow.lsli2 (rd : Reg) (uimm4 : BitVec 4) : LengthOfRow.Statement (.lsli2 rd uimm4) := rfl
theorem LengthOfRow.lsri2 (rd : Reg) (uimm4 : BitVec 4) : LengthOfRow.Statement (.lsri2 rd uimm4) := rfl
theorem LengthOfRow.asri2 (rd : Reg) (uimm4 : BitVec 4) : LengthOfRow.Statement (.asri2 rd uimm4) := rfl
theorem LengthOfRow.jalr (rs : Reg) : LengthOfRow.Statement (.jalr rs) := rfl
theorem LengthOfRow.jr (rs : Reg) : LengthOfRow.Statement (.jr rs) := rfl
theorem LengthOfRow.js (simm11 : BitVec 11) : LengthOfRow.Statement (.js simm11) := rfl
theorem LengthOfRow.jsal (simm11 : BitVec 11) : LengthOfRow.Statement (.jsal simm11) := rfl
theorem LengthOfRow.lwsp (rd : Reg) (uimm7 : BitVec 7) : LengthOfRow.Statement (.lwsp rd uimm7) := rfl
theorem LengthOfRow.swsp (rs : Reg) (uimm7 : BitVec 7) : LengthOfRow.Statement (.swsp rs uimm7) := rfl
theorem LengthOfRow.nop : LengthOfRow.Statement .nop := rfl

end Sys2Proof.Laws
end

