-- ==== Sys2Proof/Laws/Run.lean ====
section
/-! SUPPORT. What a launch can do, said once. -/

namespace Sys2Proof.Machine

/-- Which parameters a launch may give (R3). -/
theorem params_listed_iff {p : Params} :
    p.listed = true ↔ p.memOrg ≠ .free ∧ p.misalignedWord ≠ .free ∧ p.shiftAmount ≠ .free := by
  simp [Params.listed, and_assoc]

/-- The spec's defaults are values of R3; those of `State.reset` are the model's own. -/
theorem params_listed_specDefaults : Params.specDefaults.listed = true ∧ Params.atReset.listed = false := by decide

/-- The addresses of IMEM_RANGE. -/
theorem launch_imemRange_has_iff (l : Launch) (a : Nat) :
    rangeHas l.imemRange a = true ↔ l.imageBase ≤ a ∧ a < l.imageBase + l.image.length :=
  rangeHas_iff l.imemRange a

/-- The launch's own check of a data byte's address. -/
theorem launch_declares_iff (l : Launch) (c : Host.Cell) :
    l.declares c = true ↔ c.1 < 65536 ∧ ∃ r ∈ l.dmemRange, r.base ≤ c.1 ∧ c.1 < r.base + r.len := by
  simp [Launch.declares, rangeHas_iff]

/-- A launch that is admitted: what it satisfies, and the state it starts from (R203, R204). -/
theorem launch_start_eq_ok {l : Launch} {s : State} (h : l.start = .ok s) :
    l.image ≠ [] ∧ l.imageBase + l.image.length ≤ 65536 ∧ rangeHas l.imemRange l.resetPc.toNat = true ∧
      l.params.listed = true ∧ l.data.all l.declares = true ∧ s = l.state := by
  unfold Launch.start at h
  split at h
  · cases h
  split at h
  · cases h
  split at h
  · cases h
  split at h
  · cases h
  split at h
  · cases h
  · simp_all

/-- The state of a launch has the parameters it gives. -/
@[simp] theorem launch_state_params (l : Launch) : l.state.params = l.params := rfl

@[simp] theorem launch_state_pc (l : Launch) : l.state.pc = l.resetPc := rfl

@[simp] theorem launch_state_imemRange (l : Launch) : l.state.imemRange = l.imemRange := rfl

@[simp] theorem launch_state_dmemRange (l : Launch) : l.state.dmemRange = l.dmemRange := rfl

end Sys2Proof.Machine
end

