-- ==== Sys2Proof/Tests/Slice0.lean ====
section
/-! SUPPORT. Tests. The words, states and results are those of spec/95_test_vectors.md, section by section, unless a
comment names another source; the witnesses at the end meet the hypotheses of the statements for the provers. -/

namespace Sys2Proof.Tests

open Sys2Proof.Machine

/-! ## Helpers -/

/-- R3's defaults. -/
def defaults : Params := Params.specDefaults

/-- The one-instruction launch of 95_test_vectors.md section 3: the instruction at `pc` is the only content of
IMEM_RANGE, every address is declared data memory. -/
def alone (pc : Word) (i : Instr) (regs : List (Reg × Word)) (data : List Host.Cell) (p : Params := defaults) :
    State :=
  Launch.state { imageBase := pc.toNat, image := encode i, dmemRange := [⟨0, 65536⟩], data := data, resetPc := pc,
                 params := p, regs := regs }

/-- pc after a step. -/
def pcAfter : Res State → Option Word
  | .next s => some s.pc
  | .fault _ => none
  | .refused _ => none

/-- A register, and pc, after a step. -/
def regAfter (r : Reg) : Res State → Option (Word × Word)
  | .next s => some (s.reg r, s.pc)
  | .fault _ => none
  | .refused _ => none

/-- Two bytes of data memory, and pc, after a step. -/
def bytesAfter (a b : Nat) : Res State → Option (Option Byte × Option Byte × Word)
  | .next s => some (s.dataByte a, s.dataByte b, s.pc)
  | .fault _ => none
  | .refused _ => none

/-- The fault of a step. -/
def faultOf : Res State → Option Fault
  | .next _ => none
  | .fault e => some e
  | .refused _ => none

/-- The refusal of a step. -/
def refusalOf : Res State → Option Refusal
  | .next _ => none
  | .fault _ => none
  | .refused e => some e

/-- What a decoder reads from bytes, if it reads an instruction and no byte is left. -/
def reads (p : Params) (bytes : List Byte) : Option Instr :=
  match decode p bytes with
  | .ok (i, []) => some i
  | .ok (_, _ :: _) => none
  | .error _ => none

/-- The reserved word a decoder rejects bytes with. -/
def rejects (p : Params) (bytes : List Byte) : Option (BitVec 24) :=
  match decode p bytes with
  | .ok _ => none
  | .error (.reserved w) => some w
  | .error .needsMoreBytes => none

/-! ## Decoding and encoding (section 2; every constructor) -/

theorem test_decode_R24 :
    reads defaults [0x01, 0x98, 0x0A] = some (.add 8 9 10) ∧
    reads defaults [0x09, 0x43, 0x05] = some (.sub 3 4 5) ∧
    reads defaults [0x11, 0xFE, 0x00] = some (.and 14 15 0) ∧
    reads defaults [0x19, 0x88, 0x08] = some (.xor 8 8 8) ∧
    reads defaults [0x21, 0xCD, 0x0B] = some (.or 13 12 11) ∧
    reads defaults [0x29, 0x98, 0x0A] = some (.lsl 8 9 10) ∧
    reads defaults [0x31, 0x98, 0x0A] = some (.lsr 8 9 10) ∧
    reads defaults [0x39, 0x98, 0x0A] = some (.asr 8 9 10) := by decide

theorem test_encode_R24 :
    encode (.add 8 9 10) = [0x01, 0x98, 0x0A] ∧
    encode (.sub 3 4 5) = [0x09, 0x43, 0x05] ∧
    encode (.and 14 15 0) = [0x11, 0xFE, 0x00] ∧
    encode (.xor 8 8 8) = [0x19, 0x88, 0x08] ∧
    encode (.or 13 12 11) = [0x21, 0xCD, 0x0B] ∧
    encode (.lsl 8 9 10) = [0x29, 0x98, 0x0A] ∧
    encode (.lsr 8 9 10) = [0x31, 0x98, 0x0A] ∧
    encode (.asr 8 9 10) = [0x39, 0x98, 0x0A] := by decide

theorem test_decode_I24_and_LI24 :
    reads defaults [0xC3, 0x98, 0xFF] = some (.addi 8 9 (-1)) ∧
    reads defaults [0x03, 0x98, 0x00] = some (.addi 8 9 0) ∧
    reads defaults [0x03, 0x98, 0x01] = some (.addi 8 9 1) ∧
    reads defaults [0x03, 0x98, 0xFF] = some (.addi 8 9 255) ∧
    reads defaults [0x43, 0x98, 0x00] = some (.addi 8 9 256) ∧
    reads defaults [0x43, 0x98, 0xFF] = some (.addi 8 9 511) ∧
    reads defaults [0x83, 0x11, 0x00] = some (.addi 1 1 (-512)) ∧
    reads defaults [0xC3, 0x98, 0x00] = some (.addi 8 9 (-256)) ∧
    reads defaults [0x13, 0x98, 0xFF] = some (.andi 8 9 255) ∧
    reads defaults [0xDB, 0x98, 0xFF] = some (.xori 8 9 (-1)) ∧
    reads defaults [0x63, 0x98, 0xFF] = some (.ori 8 9 511) ∧
    reads defaults [0xB5, 0x08, 0x00] = some (.li 8 (-512)) := by decide

theorem test_encode_I24_and_LI24 :
    encode (.addi 8 9 (-1)) = [0xC3, 0x98, 0xFF] ∧
    encode (.addi 8 9 0) = [0x03, 0x98, 0x00] ∧
    encode (.addi 8 9 1) = [0x03, 0x98, 0x01] ∧
    encode (.addi 8 9 255) = [0x03, 0x98, 0xFF] ∧
    encode (.addi 8 9 256) = [0x43, 0x98, 0x00] ∧
    encode (.addi 8 9 511) = [0x43, 0x98, 0xFF] ∧
    encode (.addi 1 1 (-512)) = [0x83, 0x11, 0x00] ∧
    encode (.addi 8 9 (-256)) = [0xC3, 0x98, 0x00] ∧
    encode (.andi 8 9 255) = [0x13, 0x98, 0xFF] ∧
    encode (.xori 8 9 (-1)) = [0xDB, 0x98, 0xFF] ∧
    encode (.ori 8 9 511) = [0x63, 0x98, 0xFF] ∧
    encode (.li 8 (-512)) = [0xB5, 0x08, 0x00] := by decide

theorem test_decode_SH24 :
    reads defaults [0x2B, 0x98, 0x04] = some (.lsli 8 9 4) ∧
    reads defaults [0x33, 0x98, 0x0F] = some (.lsri 8 9 15) ∧
    reads defaults [0x3B, 0x98, 0x08] = some (.asri 8 9 8) := by decide

theorem test_encode_SH24 :
    encode (.lsli 8 9 4) = [0x2B, 0x98, 0x04] ∧
    encode (.lsri 8 9 15) = [0x33, 0x98, 0x0F] ∧
    encode (.asri 8 9 8) = [0x3B, 0x98, 0x08] := by decide

theorem test_decode_B24 :
    reads defaults [0x0F, 0x89, 0x06] = some (.beq 8 9 6) ∧
    reads defaults [0xEF, 0x89, 0xFD] = some (.bne 8 9 (-3)) ∧
    reads defaults [0x77, 0x89, 0xFF] = some (.blt 8 9 511) ∧
    reads defaults [0x97, 0x89, 0x00] = some (.bltu 8 9 (-512)) ∧
    reads defaults [0x7F, 0x34, 0x00] = some (.ble 3 4 256) ∧
    reads defaults [0x1F, 0xEF, 0x03] = some (.bleu 14 15 3) := by decide

theorem test_encode_B24 :
    encode (.beq 8 9 6) = [0x0F, 0x89, 0x06] ∧
    encode (.bne 8 9 (-3)) = [0xEF, 0x89, 0xFD] ∧
    encode (.blt 8 9 511) = [0x77, 0x89, 0xFF] ∧
    encode (.bltu 8 9 (-512)) = [0x97, 0x89, 0x00] ∧
    encode (.ble 3 4 256) = [0x7F, 0x34, 0x00] ∧
    encode (.bleu 14 15 3) = [0x1F, 0xEF, 0x03] := by decide

theorem test_decode_L24_and_S24 :
    reads defaults [0x15, 0x18, 0x02] = some (.lw 8 1 2) ∧
    reads defaults [0xE5, 0x38, 0xFF] = some (.lb 8 3 (-1)) ∧
    reads defaults [0x45, 0x29, 0xFF] = some (.lbu 9 2 511) ∧
    reads defaults [0x0D, 0x18, 0x02] = some (.sw 8 1 2) ∧
    reads defaults [0xF5, 0x38, 0xFF] = some (.sb 8 3 (-1)) := by decide

theorem test_encode_L24_and_S24 :
    encode (.lw 8 1 2) = [0x15, 0x18, 0x02] ∧
    encode (.lb 8 3 (-1)) = [0xE5, 0x38, 0xFF] ∧
    encode (.lbu 9 2 511) = [0x45, 0x29, 0xFF] ∧
    encode (.sw 8 1 2) = [0x0D, 0x18, 0x02] ∧
    encode (.sb 8 3 (-1)) = [0xF5, 0x38, 0xFF] := by decide

theorem test_decode_R16 :
    reads defaults [0xC0, 0x98] = some (.mov 8 9) ∧
    reads defaults [0x80, 0x98] = some (.add2 8 9) ∧
    reads defaults [0x88, 0x98] = some (.sub2 8 9) ∧
    reads defaults [0x90, 0x98] = some (.and2 8 9) ∧
    reads defaults [0x98, 0x98] = some (.xor2 8 9) ∧
    reads defaults [0xA0, 0x98] = some (.or2 8 9) ∧
    reads defaults [0xA8, 0x98] = some (.lsl2 8 9) ∧
    reads defaults [0xB0, 0x98] = some (.lsr2 8 9) ∧
    reads defaults [0xB8, 0x98] = some (.asr2 8 9) := by decide

theorem test_encode_R16 :
    encode (.mov 8 9) = [0xC0, 0x98] ∧
    encode (.add2 8 9) = [0x80, 0x98] ∧
    encode (.sub2 8 9) = [0x88, 0x98] ∧
    encode (.and2 8 9) = [0x90, 0x98] ∧
    encode (.xor2 8 9) = [0x98, 0x98] ∧
    encode (.or2 8 9) = [0xA0, 0x98] ∧
    encode (.lsl2 8 9) = [0xA8, 0x98] ∧
    encode (.lsr2 8 9) = [0xB0, 0x98] ∧
    encode (.asr2 8 9) = [0xB8, 0x98] := by decide

theorem test_decode_I16 :
    reads defaults [0xC2, 0xE1] = some (.addi2 1 (-2)) ∧
    reads defaults [0x02, 0x21] = some (.addi2 1 2) ∧
    reads defaults [0x42, 0xF8] = some (.addi2 8 31) ∧
    reads defaults [0x82, 0x08] = some (.addi2 8 (-32)) ∧
    reads defaults [0x02, 0xF8] = some (.addi2 8 15) ∧
    reads defaults [0x42, 0x08] = some (.addi2 8 16) ∧
    reads defaults [0x12, 0xF8] = some (.andi2 8 15) ∧
    reads defaults [0xB4, 0x08] = some (.lsi 8 (-32)) ∧
    reads defaults [0x04, 0x18] = some (.lui 8 1) := by decide

theorem test_encode_I16 :
    encode (.addi2 1 (-2)) = [0xC2, 0xE1] ∧
    encode (.addi2 1 2) = [0x02, 0x21] ∧
    encode (.addi2 8 31) = [0x42, 0xF8] ∧
    encode (.addi2 8 (-32)) = [0x82, 0x08] ∧
    encode (.addi2 8 15) = [0x02, 0xF8] ∧
    encode (.addi2 8 16) = [0x42, 0x08] ∧
    encode (.andi2 8 15) = [0x12, 0xF8] ∧
    encode (.lsi 8 (-32)) = [0xB4, 0x08] ∧
    encode (.lui 8 1) = [0x04, 0x18] := by decide

theorem test_decode_SH16 :
    reads defaults [0x2A, 0x18] = some (.lsli2 8 1) ∧
    reads defaults [0x32, 0xF8] = some (.lsri2 8 15) ∧
    reads defaults [0x3A, 0x88] = some (.asri2 8 8) := by decide

theorem test_encode_SH16 :
    encode (.lsli2 8 1) = [0x2A, 0x18] ∧
    encode (.lsri2 8 15) = [0x32, 0xF8] ∧
    encode (.asri2 8 8) = [0x3A, 0x88] := by decide

theorem test_decode_JR16_and_JS16 :
    reads defaults [0x16, 0x08] = some (.jalr 8) ∧
    reads defaults [0x06, 0x00] = some (.jr 0) ∧
    reads defaults [0x0E, 0x00] = some (.js 0) ∧
    reads defaults [0x4E, 0x00] = some (.js 2) ∧
    reads defaults [0xCE, 0xFF] = some (.js (-2)) ∧
    reads defaults [0xEE, 0x7F] = some (.js 1023) ∧
    reads defaults [0x0E, 0x80] = some (.js (-1024)) ∧
    reads defaults [0x9E, 0x00] = some (.jsal 4) := by decide

theorem test_encode_JR16_and_JS16 :
    encode (.jalr 8) = [0x16, 0x08] ∧
    encode (.jr 0) = [0x06, 0x00] ∧
    encode (.js 0) = [0x0E, 0x00] ∧
    encode (.js 2) = [0x4E, 0x00] ∧
    encode (.js (-2)) = [0xCE, 0xFF] ∧
    encode (.js 1023) = [0xEE, 0x7F] ∧
    encode (.js (-1024)) = [0x0E, 0x80] ∧
    encode (.jsal 4) = [0x9E, 0x00] := by decide

theorem test_decode_SP16_and_N16 :
    reads defaults [0x14, 0x08] = some (.lwsp 8 0) ∧
    reads defaults [0x14, 0x18] = some (.lwsp 8 2) ∧
    reads defaults [0x14, 0xF8] = some (.lwsp 8 30) ∧
    reads defaults [0x54, 0x08] = some (.lwsp 8 32) ∧
    reads defaults [0xD4, 0xF0] = some (.lwsp 0 126) ∧
    reads defaults [0x1C, 0x00] = some (.swsp 0 0) ∧
    reads defaults [0x00, 0x00] = some (.nop) := by decide

theorem test_encode_SP16_and_N16 :
    encode (.lwsp 8 0) = [0x14, 0x08] ∧
    encode (.lwsp 8 2) = [0x14, 0x18] ∧
    encode (.lwsp 8 30) = [0x14, 0xF8] ∧
    encode (.lwsp 8 32) = [0x54, 0x08] ∧
    encode (.lwsp 0 126) = [0xD4, 0xF0] ∧
    encode (.swsp 0 0) = [0x1C, 0x00] ∧
    encode (.nop) = [0x00, 0x00] := by decide

/-- Section 2.11 and 3.13: the word shared by `j` and `jal`. -/
theorem test_decode_J24 :
    reads { defaults with j24 := .j } [0x07, 0x34, 0x12] = some (.j 0x1234) ∧
    reads { defaults with j24 := .jal } [0x07, 0x34, 0x12] = some (.jal 0x1234) ∧
    rejects defaults [0x07, 0x34, 0x12] = some 0x123407 ∧
    encode (.j 0xFFFD) = [0x07, 0xFD, 0xFF] ∧ encode (.jal 0xFFFD) = [0x07, 0xFD, 0xFF] := by decide

/-! ## What has no encoding (section 2.12): the checks of WellFormed and the ranges of the operands -/

theorem test_wellFormed_sb_base_x0 : Instr.wellFormed defaults (.sb 8 0 0) = false := by decide
theorem test_wellFormed_sb_not_admitted :
    Instr.wellFormed { defaults with sbAdmitted := false } (.sb 8 3 0) = false := by decide
theorem test_wellFormed_lwsp_odd : Instr.wellFormed defaults (.lwsp 8 1) = false := by decide
theorem test_wellFormed_swsp_odd : Instr.wellFormed defaults (.swsp 8 127) = false := by decide
theorem test_wellFormed_j_not_admitted : Instr.wellFormed defaults (.j 0) = false := by decide
theorem test_wellFormed_jal_not_admitted :
    Instr.wellFormed { defaults with j24 := .j } (.jal 0) = false := by decide
theorem test_ranges_rejected :
    simmField 10 512 = none ∧ simmField 10 (-513) = none ∧ simmField 6 32 = none ∧ simmField 6 (-33) = none ∧
    uimmField 4 16 = none ∧ simmField 11 1024 = none ∧ evenUimm7Field 1 = none ∧ evenUimm7Field 128 = none ∧
    evenUimm7Field (-2) = none := by decide
theorem test_ranges_accepted :
    simmField 10 511 = some 511 ∧ simmField 10 (-512) = some 512 ∧ uimmField 4 15 = some 15 ∧
    evenUimm7Field 126 = some 126 := by decide
/-- R83's label rule, with P1's `bne a1, t0, loop` at 0x000A, loop at 0x0006. -/
theorem test_label : labelField 10 0x0006 0x000A = some (-4) := by decide
theorem test_render :
    render (.lw 8 1 2) = "lw a0, 2(sp)" ∧ render (.sb 8 3 (-1)) = "sb a0, -1(s0)" ∧
    render (.bne 9 14 (-4)) = "bne a1, t0, -4" := by decide

/-! ## Reserved words (section 4, in R80's order) -/

theorem test_reserved_16 :
    rejects defaults [0x00, 0x01] = some 0x0100 ∧
    rejects defaults [0x08, 0x00] = some 0x0008 ∧
    rejects defaults [0x40, 0x98] = some 0x9840 ∧
    rejects defaults [0xC8, 0x98] = some 0x98C8 ∧
    rejects defaults [0x0A, 0x08] = some 0x080A ∧
    rejects defaults [0x6A, 0x18] = some 0x186A ∧
    rejects defaults [0x0C, 0x08] = some 0x080C ∧
    rejects defaults [0x06, 0x10] = some 0x1006 ∧
    rejects defaults [0x26, 0x00] = some 0x0026 := by decide

theorem test_reserved_24 :
    rejects defaults [0x01, 0x98, 0x1A] = some 0x1A9801 ∧
    rejects defaults [0x41, 0x98, 0x0A] = some 0x0A9841 ∧
    rejects defaults [0x0B, 0x98, 0x01] = some 0x01980B ∧
    rejects defaults [0x6B, 0x98, 0x04] = some 0x04986B ∧
    rejects defaults [0x2B, 0x98, 0x14] = some 0x14982B ∧
    rejects defaults [0x1D, 0x18, 0x02] = some 0x02181D ∧
    rejects defaults [0x2D, 0x18, 0x02] = some 0x02182D ∧
    rejects defaults [0x3D, 0x18, 0x02] = some 0x02183D ∧
    rejects defaults [0x07, 0x34, 0x12] = some 0x123407 ∧
    rejects defaults [0x47, 0x34, 0x12] = some 0x123447 ∧
    rejects defaults [0x27, 0x89, 0x06] = some 0x068927 := by decide

theorem test_reserved_sb_not_admitted :
    rejects { defaults with sbAdmitted := false } [0x35, 0x18, 0x00] = some 0x001835 := by decide
theorem test_all_ones_is_ble : reads defaults [0xFF, 0xFF, 0xFF] = some (.ble 15 15 (-1)) := by decide
theorem test_js_uses_bit_5 : reads defaults [0x2E, 0x00] = some (.js 1) := by decide

/-! ## One step of each instruction (section 3) -/

/-- `add a0, a1, a2`: a1=0xFFFF, a2=0x0001. -/
theorem test_add_1 :
    regAfter 8 (step (alone 0x0040 (.add 8 9 10) [(9, 0xFFFF), (10, 0x0001)] [])) = some (0x0000, 0x0043) := by decide

/-- `add a0, a0, a0`: a0=0x4001. -/
theorem test_add_2 :
    regAfter 8 (step (alone 0x0040 (.add 8 8 8) [(8, 0x4001)] [])) = some (0x8002, 0x0043) := by decide

/-- `sub s0, s1, s2`: s1=0x0005, s2=0x0007. -/
theorem test_sub_1 :
    regAfter 3 (step (alone 0x0040 (.sub 3 4 5) [(4, 0x0005), (5, 0x0007)] [])) = some (0xFFFE, 0x0043) := by decide

/-- `sub s0, s1, s2`: s1=0x0000, s2=0x8000. -/
theorem test_sub_2 :
    regAfter 3 (step (alone 0x0040 (.sub 3 4 5) [(4, 0x0000), (5, 0x8000)] [])) = some (0x8000, 0x0043) := by decide

/-- `and t0, t1, ra`: t1=0xFF0F, ra=0x3C3C. -/
theorem test_and_1 :
    regAfter 14 (step (alone 0x0040 (.and 14 15 0) [(15, 0xFF0F), (0, 0x3C3C)] [])) =
      some (0x3C0C, 0x0043) := by decide

/-- `xor a0, a1, a2`: a1=0xAAAA, a2=0xFFFF. -/
theorem test_xor_1 :
    regAfter 8 (step (alone 0x0040 (.xor 8 9 10) [(9, 0xAAAA), (10, 0xFFFF)] [])) = some (0x5555, 0x0043) := by decide

/-- `xor a0, a0, a0`: a0=0x1234. -/
theorem test_xor_2 :
    regAfter 8 (step (alone 0x0040 (.xor 8 8 8) [(8, 0x1234)] [])) = some (0x0000, 0x0043) := by decide

/-- `or a5, a4, a3`: a4=0x00F0, a3=0x0F00. -/
theorem test_or_1 :
    regAfter 13 (step (alone 0x0040 (.or 13 12 11) [(12, 0x00F0), (11, 0x0F00)] [])) =
      some (0x0FF0, 0x0043) := by decide

/-- `lsl a0, a1, a2`: a1=0x00FF, a2=0x0004. -/
theorem test_lsl_1 :
    regAfter 8 (step (alone 0x0040 (.lsl 8 9 10) [(9, 0x00FF), (10, 0x0004)] [])) = some (0x0FF0, 0x0043) := by decide

/-- `lsr a0, a1, a2`: a1=0xF000, a2=0x0004. -/
theorem test_lsr_1 :
    regAfter 8 (step (alone 0x0040 (.lsr 8 9 10) [(9, 0xF000), (10, 0x0004)] [])) = some (0x0F00, 0x0043) := by decide

/-- `lsr a0, a1, a2`: a1=0x8000, a2=0x000F. -/
theorem test_lsr_2 :
    regAfter 8 (step (alone 0x0040 (.lsr 8 9 10) [(9, 0x8000), (10, 0x000F)] [])) = some (0x0001, 0x0043) := by decide

/-- `asr a0, a1, a2`: a1=0x8000, a2=0x000F. -/
theorem test_asr_1 :
    regAfter 8 (step (alone 0x0040 (.asr 8 9 10) [(9, 0x8000), (10, 0x000F)] [])) = some (0xFFFF, 0x0043) := by decide

/-- `addi a0, a1, 511`: a1=0xFFFF. -/
theorem test_addi_1 :
    regAfter 8 (step (alone 0x0040 (.addi 8 9 511) [(9, 0xFFFF)] [])) = some (0x01FE, 0x0043) := by decide

/-- `addi sp, sp, -512`: sp=0x0400. -/
theorem test_addi_2 :
    regAfter 1 (step (alone 0x0040 (.addi 1 1 (-512)) [(1, 0x0400)] [])) = some (0x0200, 0x0043) := by decide

/-- `andi a0, a1, 255`: a1=0xABCD. -/
theorem test_andi_1 :
    regAfter 8 (step (alone 0x0040 (.andi 8 9 255) [(9, 0xABCD)] [])) = some (0x00CD, 0x0043) := by decide

/-- `andi a0, a1, -256`: a1=0xABCD. -/
theorem test_andi_2 :
    regAfter 8 (step (alone 0x0040 (.andi 8 9 (-256)) [(9, 0xABCD)] [])) = some (0xAB00, 0x0043) := by decide

/-- `xori a0, a1, -1`: a1=0x00FF. -/
theorem test_xori_1 :
    regAfter 8 (step (alone 0x0040 (.xori 8 9 (-1)) [(9, 0x00FF)] [])) = some (0xFF00, 0x0043) := by decide

/-- `xori a0, a1, 511`: a1=0x0000. -/
theorem test_xori_2 :
    regAfter 8 (step (alone 0x0040 (.xori 8 9 511) [(9, 0x0000)] [])) = some (0x01FF, 0x0043) := by decide

/-- `ori a0, a1, 511`: a1=0x8000. -/
theorem test_ori_1 :
    regAfter 8 (step (alone 0x0040 (.ori 8 9 511) [(9, 0x8000)] [])) = some (0x81FF, 0x0043) := by decide

/-- `ori a0, a1, -512`: a1=0x0001. -/
theorem test_ori_2 :
    regAfter 8 (step (alone 0x0040 (.ori 8 9 (-512)) [(9, 0x0001)] [])) = some (0xFE01, 0x0043) := by decide

/-- `li a0, -512`: no register. -/
theorem test_li_1 :
    regAfter 8 (step (alone 0x0040 (.li 8 (-512)) [] [])) = some (0xFE00, 0x0043) := by decide

/-- `li t1, 511`: no register. -/
theorem test_li_2 :
    regAfter 15 (step (alone 0x0040 (.li 15 511) [] [])) = some (0x01FF, 0x0043) := by decide

/-- `lsli a0, a1, 4`: a1=0x1234. -/
theorem test_lsli_1 :
    regAfter 8 (step (alone 0x0040 (.lsli 8 9 4) [(9, 0x1234)] [])) = some (0x2340, 0x0043) := by decide

/-- `lsli a0, a1, 0`: a1=0x1234. -/
theorem test_lsli_2 :
    regAfter 8 (step (alone 0x0040 (.lsli 8 9 0) [(9, 0x1234)] [])) = some (0x1234, 0x0043) := by decide

/-- `lsri a0, a1, 15`: a1=0x8000. -/
theorem test_lsri_1 :
    regAfter 8 (step (alone 0x0040 (.lsri 8 9 15) [(9, 0x8000)] [])) = some (0x0001, 0x0043) := by decide

/-- `lsri a0, a1, 1`: a1=0xFFFF. -/
theorem test_lsri_2 :
    regAfter 8 (step (alone 0x0040 (.lsri 8 9 1) [(9, 0xFFFF)] [])) = some (0x7FFF, 0x0043) := by decide

/-- `asri a0, a1, 8`: a1=0x8100. -/
theorem test_asri_1 :
    regAfter 8 (step (alone 0x0040 (.asri 8 9 8) [(9, 0x8100)] [])) = some (0xFF81, 0x0043) := by decide

/-- `asri a0, a1, 8`: a1=0x7F00. -/
theorem test_asri_2 :
    regAfter 8 (step (alone 0x0040 (.asri 8 9 8) [(9, 0x7F00)] [])) = some (0x007F, 0x0043) := by decide

/-- `beq a0, a1, 6`: a0=0x0005, a1=0x0005. -/
theorem test_beq_1 :
    pcAfter (step (alone 0x0010 (.beq 8 9 6) [(8, 0x0005), (9, 0x0005)] [])) = some 0x0016 := by decide

/-- `beq a0, a1, 6`: a0=0x0005, a1=0x0006. -/
theorem test_beq_2 :
    pcAfter (step (alone 0x0010 (.beq 8 9 6) [(8, 0x0005), (9, 0x0006)] [])) = some 0x0013 := by decide

/-- `bne a0, a1, -3`: a0=0x0001, a1=0x0002. -/
theorem test_bne_1 :
    pcAfter (step (alone 0x0010 (.bne 8 9 (-3)) [(8, 0x0001), (9, 0x0002)] [])) = some 0x000D := by decide

/-- `bne a0, a1, -3`: a0=0x0002, a1=0x0002. -/
theorem test_bne_2 :
    pcAfter (step (alone 0x0010 (.bne 8 9 (-3)) [(8, 0x0002), (9, 0x0002)] [])) = some 0x0013 := by decide

/-- `blt a0, a1, 511`: a0=0x8000, a1=0x7FFF. -/
theorem test_blt_1 :
    pcAfter (step (alone 0x0100 (.blt 8 9 511) [(8, 0x8000), (9, 0x7FFF)] [])) = some 0x02FF := by decide

/-- `blt a0, a1, 511`: a0=0x7FFF, a1=0x8000. -/
theorem test_blt_2 :
    pcAfter (step (alone 0x0100 (.blt 8 9 511) [(8, 0x7FFF), (9, 0x8000)] [])) = some 0x0103 := by decide

/-- `bltu a0, a1, -512`: a0=0x8000, a1=0x7FFF. -/
theorem test_bltu_1 :
    pcAfter (step (alone 0x0300 (.bltu 8 9 (-512)) [(8, 0x8000), (9, 0x7FFF)] [])) = some 0x0303 := by decide

/-- `bltu a0, a1, -512`: a0=0x7FFF, a1=0x8000. -/
theorem test_bltu_2 :
    pcAfter (step (alone 0x0300 (.bltu 8 9 (-512)) [(8, 0x7FFF), (9, 0x8000)] [])) = some 0x0100 := by decide

/-- `ble s0, s1, 256`: s0=0x0003, s1=0x0003. -/
theorem test_ble_1 :
    pcAfter (step (alone 0x0010 (.ble 3 4 256) [(3, 0x0003), (4, 0x0003)] [])) = some 0x0110 := by decide

/-- `ble s0, s1, 256`: s0=0x7FFF, s1=0x8000. -/
theorem test_ble_2 :
    pcAfter (step (alone 0x0010 (.ble 3 4 256) [(3, 0x7FFF), (4, 0x8000)] [])) = some 0x0013 := by decide

/-- `bleu t0, t1, 3`: t0=0x8000, t1=0x7FFF. -/
theorem test_bleu_1 :
    pcAfter (step (alone 0x0010 (.bleu 14 15 3) [(14, 0x8000), (15, 0x7FFF)] [])) = some 0x0013 := by decide

/-- `bleu t0, t1, -16`: t0=0x0000, t1=0x0000. -/
theorem test_bleu_2 :
    pcAfter (step (alone 0x0008 (.bleu 14 15 (-16)) [(14, 0x0000), (15, 0x0000)] [])) = some 0xFFF8 := by decide

/-- `lw a0, 0(a0)`: a0=0x0200, [0x0200]=0xEF, [0x0201]=0xBE. -/
theorem test_lw_1 :
    regAfter 8 (step (alone 0x0040 (.lw 8 8 0) [(8, 0x0200)] [(0x0200, 0xEF), (0x0201, 0xBE)])) =
      some (0xBEEF, 0x0043) := by decide

/-- `lb a0, -1(s0)`: s0=0x0101, [0x0100]=0xAB. -/
theorem test_lb_1 :
    regAfter 8 (step (alone 0x0040 (.lb 8 3 (-1)) [(3, 0x0101)] [(0x0100, 0xAB)])) =
      some (0xFFAB, 0x0043) := by decide

/-- `lb a0, 0(s0)`: s0=0x0101, [0x0101]=0x7F. -/
theorem test_lb_2 :
    regAfter 8 (step (alone 0x0040 (.lb 8 3 0) [(3, 0x0101)] [(0x0101, 0x7F)])) = some (0x007F, 0x0043) := by decide

/-- `lbu a1, 511(fp)`: fp=0x0001, [0x0200]=0x80. -/
theorem test_lbu_1 :
    regAfter 9 (step (alone 0x0040 (.lbu 9 2 511) [(2, 0x0001)] [(0x0200, 0x80)])) =
      some (0x0080, 0x0043) := by decide

/-- `lbu a1, -1(fp)`: fp=0x0000, [0xFFFF]=0x5A. -/
theorem test_lbu_2 :
    regAfter 9 (step (alone 0x0040 (.lbu 9 2 (-1)) [(2, 0x0000)] [(0xFFFF, 0x5A)])) =
      some (0x005A, 0x0043) := by decide

/-- `sw a0, 2(sp)`: sp=0x0400, a0=0xBEEF. -/
theorem test_sw_1 :
    bytesAfter 0x0402 0x0403 (step (alone 0x0040 (.sw 8 1 2) [(1, 0x0400), (8, 0xBEEF)] [])) =
      some (some 0xEF, some 0xBE, 0x0043) := by decide

/-- `sw ra, -512(t1)`: t1=0x0200, ra=0x0001. -/
theorem test_sw_2 :
    bytesAfter 0x0000 0x0001 (step (alone 0x0040 (.sw 0 15 (-512)) [(15, 0x0200), (0, 0x0001)] [])) =
      some (some 0x01, some 0x00, 0x0043) := by decide

/-- `sb a0, 0(s0)`: s0=0x0101, a0=0x12CD, [0x0100]=0x11, [0x0101]=0x22. -/
theorem test_sb_1 :
    bytesAfter 0x0101 0x100 (step (alone 0x0040 (.sb 8 3 0) [(3, 0x0101), (8, 0x12CD)] [(0x0100, 0x11), (0x0101, 0x22)])) =
      some (some 0xCD, some 0x11, 0x0043) := by decide

/-- `sb a0, 1(s0)`: s0=0xFFFF, a0=0x00EE. -/
theorem test_sb_2 :
    bytesAfter 0x0000 0x1 (step (alone 0x0040 (.sb 8 3 1) [(3, 0xFFFF), (8, 0x00EE)] [])) =
      some (some 0xEE, none, 0x0043) := by decide

/-- `mov a0, a1`: a1=0x1234. -/
theorem test_mov_1 :
    regAfter 8 (step (alone 0x0040 (.mov 8 9) [(9, 0x1234)] [])) = some (0x1234, 0x0042) := by decide

/-- `mov a0, a1`: a1=0x0007. -/
theorem test_mov_2 :
    regAfter 8 (step (alone 0xFFFE (.mov 8 9) [(9, 0x0007)] [])) = some (0x0007, 0x0000) := by decide

/-- `add2 a0, a1`: a0=0xFFFF, a1=0x0002. -/
theorem test_add2_1 :
    regAfter 8 (step (alone 0x0040 (.add2 8 9) [(8, 0xFFFF), (9, 0x0002)] [])) = some (0x0001, 0x0042) := by decide

/-- `add2 a0, a0`: a0=0x4000. -/
theorem test_add2_2 :
    regAfter 8 (step (alone 0x0040 (.add2 8 8) [(8, 0x4000)] [])) = some (0x8000, 0x0042) := by decide

/-- `sub2 a0, a1`: a0=0x000A, a1=0x0003. -/
theorem test_sub2_1 :
    regAfter 8 (step (alone 0x0040 (.sub2 8 9) [(8, 0x000A), (9, 0x0003)] [])) = some (0x0007, 0x0042) := by decide

/-- `sub2 a0, a1`: a0=0x0003, a1=0x000A. -/
theorem test_sub2_2 :
    regAfter 8 (step (alone 0x0040 (.sub2 8 9) [(8, 0x0003), (9, 0x000A)] [])) = some (0xFFF9, 0x0042) := by decide

/-- `and2 a0, a1`: a0=0xF0F0, a1=0xFF00. -/
theorem test_and2_1 :
    regAfter 8 (step (alone 0x0040 (.and2 8 9) [(8, 0xF0F0), (9, 0xFF00)] [])) = some (0xF000, 0x0042) := by decide

/-- `xor2 a0, a1`: a0=0xF0F0, a1=0xFF00. -/
theorem test_xor2_1 :
    regAfter 8 (step (alone 0x0040 (.xor2 8 9) [(8, 0xF0F0), (9, 0xFF00)] [])) = some (0x0FF0, 0x0042) := by decide

/-- `or2 a0, a1`: a0=0xF0F0, a1=0xFF00. -/
theorem test_or2_1 :
    regAfter 8 (step (alone 0x0040 (.or2 8 9) [(8, 0xF0F0), (9, 0xFF00)] [])) = some (0xFFF0, 0x0042) := by decide

/-- `lsl2 a0, a1`: a0=0x0003, a1=0x0002. -/
theorem test_lsl2_1 :
    regAfter 8 (step (alone 0x0040 (.lsl2 8 9) [(8, 0x0003), (9, 0x0002)] [])) = some (0x000C, 0x0042) := by decide

/-- `lsr2 a0, a1`: a0=0x8000, a1=0x0003. -/
theorem test_lsr2_1 :
    regAfter 8 (step (alone 0x0040 (.lsr2 8 9) [(8, 0x8000), (9, 0x0003)] [])) = some (0x1000, 0x0042) := by decide

/-- `asr2 a0, a1`: a0=0x8000, a1=0x0003. -/
theorem test_asr2_1 :
    regAfter 8 (step (alone 0x0040 (.asr2 8 9) [(8, 0x8000), (9, 0x0003)] [])) = some (0xF000, 0x0042) := by decide

/-- `addi2 sp, -2`: sp=0x0400. -/
theorem test_addi2_1 :
    regAfter 1 (step (alone 0x0040 (.addi2 1 (-2)) [(1, 0x0400)] [])) = some (0x03FE, 0x0042) := by decide

/-- `addi2 a0, 31`: a0=0xFFFF. -/
theorem test_addi2_2 :
    regAfter 8 (step (alone 0x0040 (.addi2 8 31) [(8, 0xFFFF)] [])) = some (0x001E, 0x0042) := by decide

/-- `andi2 a0, 15`: a0=0xABCD. -/
theorem test_andi2_1 :
    regAfter 8 (step (alone 0x0040 (.andi2 8 15) [(8, 0xABCD)] [])) = some (0x000D, 0x0042) := by decide

/-- `andi2 a0, -16`: a0=0xABCD. -/
theorem test_andi2_2 :
    regAfter 8 (step (alone 0x0040 (.andi2 8 (-16)) [(8, 0xABCD)] [])) = some (0xABC0, 0x0042) := by decide

/-- `lsi a0, -32`: no register. -/
theorem test_lsi_1 :
    regAfter 8 (step (alone 0x0040 (.lsi 8 (-32)) [] [])) = some (0xFFE0, 0x0042) := by decide

/-- `lsi a0, 31`: no register. -/
theorem test_lsi_2 :
    regAfter 8 (step (alone 0x0040 (.lsi 8 31) [] [])) = some (0x001F, 0x0042) := by decide

/-- `lui a0, 1`: no register. -/
theorem test_lui_1 :
    regAfter 8 (step (alone 0x0040 (.lui 8 1) [] [])) = some (0x0400, 0x0042) := by decide

/-- `lui a0, 31`: no register. -/
theorem test_lui_2 :
    regAfter 8 (step (alone 0x0040 (.lui 8 31) [] [])) = some (0x7C00, 0x0042) := by decide

/-- `lsli2 a0, 1`: a0=0xC001. -/
theorem test_lsli2_1 :
    regAfter 8 (step (alone 0x0040 (.lsli2 8 1) [(8, 0xC001)] [])) = some (0x8002, 0x0042) := by decide

/-- `lsri2 a0, 15`: a0=0x8000. -/
theorem test_lsri2_1 :
    regAfter 8 (step (alone 0x0040 (.lsri2 8 15) [(8, 0x8000)] [])) = some (0x0001, 0x0042) := by decide

/-- `asri2 a0, 8`: a0=0x8000. -/
theorem test_asri2_1 :
    regAfter 8 (step (alone 0x0040 (.asri2 8 8) [(8, 0x8000)] [])) = some (0xFF80, 0x0042) := by decide

/-- `asri2 a0, 0`: a0=0x8000. -/
theorem test_asri2_2 :
    pcAfter (step (alone 0x0040 (.asri2 8 0) [(8, 0x8000)] [])) = some 0x0042 := by decide

/-- `jalr ra`: ra=0x0400. -/
theorem test_jalr_1 :
    regAfter 0 (step (alone 0x0020 (.jalr 0) [(0, 0x0400)] [])) = some (0x0022, 0x0400) := by decide

/-- `jalr a0`: a0=0x0009. -/
theorem test_jalr_2 :
    regAfter 0 (step (alone 0xFFFE (.jalr 8) [(8, 0x0009)] [])) = some (0x0000, 0x0009) := by decide

/-- `jr ra`: ra=0x0006. -/
theorem test_jr_1 :
    pcAfter (step (alone 0x0012 (.jr 0) [(0, 0x0006)] [])) = some 0x0006 := by decide

/-- `jr t1`: t1=0x0011. -/
theorem test_jr_2 :
    pcAfter (step (alone 0x0012 (.jr 15) [(15, 0x0011)] [])) = some 0x0011 := by decide

/-- `js -2`: no register. -/
theorem test_js_1 :
    pcAfter (step (alone 0x000D (.js (-2)) [] [])) = some 0x000B := by decide

/-- `js -1024`: no register. -/
theorem test_js_2 :
    pcAfter (step (alone 0x0100 (.js (-1024)) [] [])) = some 0xFD00 := by decide

/-- `jsal 4`: no register. -/
theorem test_jsal_1 :
    regAfter 0 (step (alone 0x0004 (.jsal 4) [] [])) = some (0x0006, 0x0008) := by decide

/-- `jsal -1024`: no register. -/
theorem test_jsal_2 :
    regAfter 0 (step (alone 0x0500 (.jsal (-1024)) [] [])) = some (0x0502, 0x0100) := by decide

/-- `lwsp ra, 0(sp)`: sp=0x03FE, [0x03FE]=0x06, [0x03FF]=0x00. -/
theorem test_lwsp_1 :
    regAfter 0 (step (alone 0x0040 (.lwsp 0 0) [(1, 0x03FE)] [(0x03FE, 0x06), (0x03FF, 0x00)])) =
      some (0x0006, 0x0042) := by decide

/-- `lwsp sp, 0(sp)`: sp=0x0300, [0x0300]=0x00, [0x0301]=0x05. -/
theorem test_lwsp_2 :
    regAfter 1 (step (alone 0x0040 (.lwsp 1 0) [(1, 0x0300)] [(0x0300, 0x00), (0x0301, 0x05)])) =
      some (0x0500, 0x0042) := by decide

/-- `swsp ra, 0(sp)`: sp=0x03FE, ra=0x0006. -/
theorem test_swsp_1 :
    bytesAfter 0x03FE 0x03FF (step (alone 0x0040 (.swsp 0 0) [(1, 0x03FE), (0, 0x0006)] [])) =
      some (some 0x06, some 0x00, 0x0042) := by decide

/-- `swsp sp, 0(sp)`: sp=0x0300. -/
theorem test_swsp_2 :
    bytesAfter 0x0300 0x0301 (step (alone 0x0040 (.swsp 1 0) [(1, 0x0300)] [])) =
      some (some 0x00, some 0x03, 0x0042) := by decide

/-- `nop`: a0=0x0001. -/
theorem test_nop_1 :
    pcAfter (step (alone 0x0040 (.nop) [(8, 0x0001)] [])) = some 0x0042 := by decide

/-- Section 3.13. -/
theorem test_j_1 :
    pcAfter (step (alone 0x0040 (.j 0xFFFD) [] [] { defaults with j24 := .j })) = some 0x003D := by decide

/-- Section 3.13, JAL_LINK_OFFSET = 3. -/
theorem test_jal_1 :
    regAfter 0 (step (alone 0x0040 (.jal 0x0010) [] [] { defaults with j24 := .jal })) = some (0x0043, 0x0050) := by
  decide

/-- Section 3.13, JAL_LINK_OFFSET = 4. -/
theorem test_jal_2 :
    regAfter 0 (step (alone 0x0040 (.jal 0x0010) [] [] { defaults with j24 := .jal, jalLink := .plus4 })) =
      some (0x0044, 0x0050) := by decide

/-! ## Assembler syntax (R83) -/

/-- Section 2.12's rows that are no range, and one row of section 2 for each form of R83. -/
theorem test_assemble_rejects :
    assemble defaults "sb" [.reg "a0", .mem 0 "ra"] = none ∧ assemble defaults "jalr" [.reg "a0", .reg "a1"] = none ∧
    assemble defaults "lwsp" [.reg "a0", .mem 0 "fp"] = none ∧ assemble defaults "li" [.reg "a0", .imm 512] = none ∧
    assemble defaults "lwsp" [.reg "a0", .mem 1 "sp"] = none ∧ assemble defaults "j" [.imm 0] = none := by decide

theorem test_assemble :
    assemble defaults "add" [.reg "a0", .reg "x9", .reg "a2"] = some (.add 8 9 10) ∧
    assemble defaults "bne" [.reg "a1", .reg "t0", .imm (-4)] = some (.bne 9 14 (-4)) ∧
    assemble defaults "sb" [.reg "a0", .mem (-1) "s0"] = some (.sb 8 3 (-1)) ∧
    assemble defaults "swsp" [.reg "s0", .mem 34 "sp"] = some (.swsp 3 34) ∧
    assemble defaults "lsli2" [.reg "a0", .imm 1] = some (.lsli2 8 1) ∧
    assemble defaults "js" [.imm (-1024)] = some (.js (-1024)) := by decide

/-! ## The parameters (sections 3.3, 3.7) -/

theorem test_shift_low4 :
    regAfter 8 (step (alone 0x0040 (.lsl 8 9 10) [(9, 0x0001), (10, 0x0011)] []
      { defaults with shiftAmount := .low4 })) = some (0x0002, 0x0043) := by decide

theorem test_shift_full :
    regAfter 8 (step (alone 0x0040 (.asr 8 9 10) [(9, 0x8000), (10, 0x0010)] []
      { defaults with shiftAmount := .full })) = some (0xFFFF, 0x0043) := by decide

/-- Where SHIFT_AMOUNT is `free` the step completes: pc moves on, the other registers stay, whatever the value. -/
theorem test_shift_free :
    regAfter 9 (step (alone 0x0040 (.lsl2 8 9) [(8, 0x0003), (9, 0x0010)] []
      { defaults with shiftAmount := .free })) = some (0x0010, 0x0042) := by decide

theorem test_misaligned_split :
    regAfter 8 (step (alone 0x0040 (.lw 8 3 1) [(3, 0x0200)] [(0x0201, 0x01), (0x0202, 0x02)]
      { defaults with misalignedWord := .split })) = some (0x0201, 0x0043) := by decide

theorem test_misaligned_mask :
    regAfter 8 (step (alone 0x0040 (.lw 8 3 1) [(3, 0x0200)] [(0x0200, 0x00), (0x0201, 0x01), (0x0202, 0x02)]
      { defaults with misalignedWord := .mask })) = some (0x0100, 0x0043) := by decide

/-- R32 under `big` (P2's note): the byte at the lower address is the high one. -/
theorem test_big_endian :
    bytesAfter 0x0402 0x0403 (step (alone 0x0040 (.sw 8 1 2) [(1, 0x0400), (8, 0xBEEF)] []
      { defaults with dataEndian := .big })) = some (some 0xBE, some 0xEF, 0x0043) := by decide

/-! ## Faults and refusals (section 5) -/

/-- Section 5's launch: as `alone`, with DMEM_RANGE = 0x0100 to 0xFFFF. -/
def high (i : Instr) (regs : List (Reg × Word)) (dmem : List AddrRange := [⟨0x0100, 0xFF00⟩]) : State :=
  Launch.state { imageBase := 0x0040, image := encode i, dmemRange := dmem, resetPc := 0x0040, regs := regs }

theorem test_fetchFault_third_byte :
    faultOf (step (Launch.state { imageBase := 0x0040, image := [0x01, 0x98], dmemRange := [], resetPc := 0x0040 })) =
      some (.fetchFault 0x0042) := by decide

theorem test_illegalInstruction :
    faultOf (step (Launch.state
      { imageBase := 0x0040, image := [0x0B, 0x98, 0x01], dmemRange := [], resetPc := 0x0040 })) =
      some (.illegalInstruction 0x0040 0x01980B) := by decide

theorem test_illegalInstruction_16 :
    faultOf (step (Launch.state
      { imageBase := 0x0040, image := [0x26, 0x00], dmemRange := [], resetPc := 0x0040 })) =
      some (.illegalInstruction 0x0040 0x000026) := by decide

theorem test_refusedShiftAmount :
    refusalOf (step (high (.lsl 8 9 10) [(9, 1), (10, 16)])) = some (.refusedShiftAmount 0x0040 16) := by decide

theorem test_misaligned_before_range :
    refusalOf (step (high (.sw 8 3 1) [])) = some (.misalignedFault 0x0001) := by decide

theorem test_accessFault_first_byte :
    faultOf (step (high (.sw 8 3 0) [(3, 0x00FE)])) = some (.accessFault 0x00FE) := by decide

theorem test_accessFault_second_byte :
    faultOf (step (high (.sw 8 3 0) [(3, 0xFFFE), (8, 0x1234)] [⟨0x0100, 0xFEFF⟩])) = some (.accessFault 0xFFFF) := by
  decide

theorem test_accessFault_no_value :
    faultOf (step (high (.lw 8 3 0) [(3, 0x0200)])) = some (.accessFault 0x0200) := by decide

theorem test_refusedCodeAccess_load :
    refusalOf (step (high (.lb 8 3 0) [(3, 0x0041)] [⟨0, 65536⟩])) = some (.refusedCodeAccess 0x0041) := by decide

theorem test_accessFault_before_refusedCodeAccess :
    faultOf (step (high (.lb 8 3 0) [(3, 0x0041)])) = some (.accessFault 0x0041) := by decide

theorem test_refusedCodeAccess_store :
    refusalOf (step (high (.sb 8 3 0) [(3, 0x0041)] [⟨0, 65536⟩])) = some (.refusedCodeAccess 0x0041) := by decide

theorem test_jump_out_of_image :
    pcAfter (step (high (.jr 0) [(0, 0x0800)])) = some 0x0800 ∧
      faultOf (step { high (.jr 0) [(0, 0x0800)] with pc := 0x0800 }) = some (.fetchFault 0x0800) := by decide

/-! ## The host's interface -/

/-- The table's numbering: bit 0 is the lowest bit of the first byte. -/
theorem test_decodeTableWord :
    decodeTableWord 24 0x0A9801 = some (.add 8 9 10) ∧ decodeTableWord 16 0x98C0 = some (.mov 8 9) ∧
      decodeTableWord 24 0x123407 = none := by decide

/-- An instruction placed at reset's pc is the one the next step runs. -/
theorem test_withFetchWord :
    regAfter 8 (step (State.reset.withFetchWord 24 0x0008B5)) = some (0xFE00, 0x0003) ∧
      regAfter 8 (step (State.reset.withFetchWord 16 0xF874)) = some (0x001F, 0x0002) := by decide

/-- The same at the top of the address space, where the instruction wraps (R18). -/
theorem test_withFetchWord_wraps :
    regAfter 8 (step (State.withFetchWord { State.reset with pc := 0xFFFF } 24 0x0008B5)) =
      some (0xFE00, 0x0002) := by decide

/-- P7's second state: `js 0` found inside another instruction's bytes ends the run. -/
theorem test_ended :
    State.ended (Launch.state
      { imageBase := 0, image := [0x6E, 0x00, 0x35, 0x0E, 0x00], dmemRange := [], resetPc := 3 }) = true := by
  decide

theorem test_stuck : State.stuck State.reset = true := by decide

/-- R207: a declared byte without a value, one with a value, one that is not declared. -/
theorem test_readBack :
    State.readBackByte { high .nop [] with dmem := [(0x0100, 0x11)] } 0x0101 = some none ∧
      State.readBackByte { high .nop [] with dmem := [(0x0100, 0x11)] } 0x0100 = some (some 0x11) ∧
        State.readBackByte (high .nop []) 0x00FF = none ∧ State.readBack State.reset = (0, State.reset.regs) := by
  decide

/-! ## Witnesses: states and operands that meet the hypotheses of the statements -/

theorem test_witness_DecodeOfEncode :
    Instr.wellFormed defaults (.lwsp 0 126) = true ∧ Instr.wellFormed defaults (.sb 8 15 (-512)) = true ∧
      Instr.wellFormed { defaults with j24 := .jal } (.jal 0xFFFF) = true ∧
        Instr.wellFormed { defaults with j24 := .j } (.j 0) = true := by decide

theorem test_witness_EncodeOfDecode_and_BitZero :
    decode defaults [0x01, 0x98, 0x0A, 0x77] = .ok (.add 8 9 10, [0x77]) ∧
      decode defaults [0x00, 0x00, 0x77] = .ok (.nop, [0x77]) := ⟨rfl, rfl⟩

theorem test_witness_ReservedWords :
    (0x1A9801#24)[0] = true ∧ decode24 defaults 0x1A9801 = none ∧ (0x0A9801#24)[0] = true ∧
      (decode24 defaults 0x0A9801).isSome = true ∧ (0x0100#16)[0] = false ∧ decode16 0x0100 = none ∧
        (0x98C0#16)[0] = false ∧ (decode16 0x98C0).isSome = true := by decide

theorem test_witness_LiAndSb :
    (0x000835#24).extractLsb' 0 6 = 0b110101#6 ∧ (0x000835#24).extractLsb' 12 4 = 0#4 ∧
      (0x001835#24).extractLsb' 0 6 = 0b110101#6 ∧ (0x001835#24).extractLsb' 12 4 ≠ 0#4 := by decide

theorem test_witness_OneWordPattern :
    (0x123407#24).extractLsb' 0 8 = 0b00000111#8 ∧ (0x123447#24).extractLsb' 0 6 = 0b000111#6 ∧
      (0x123447#24).extractLsb' 6 2 ≠ 0#2 := by decide

theorem test_witness_Nop :
    (0x0100#16).extractLsb' 0 8 = 0x00#8 ∧ (0x0100#16).extractLsb' 8 8 ≠ 0x00#8 := by decide

/-- The amounts where R116's clauses meet, 15 and 16, and the largest. -/
theorem test_witness_Shifts :
    (15#16).toNat < 16 ∧ ¬(16#16).toNat < 16 ∧ ¬(0xFFFF#16).toNat < 16 ∧
      (alone 0x0040 .nop [(10, 16)] []).reg 10 = 16 ∧ (alone 0x0040 .nop [(10, 15)] []).reg 10 = 15 := by decide

theorem test_witness_FreeShiftAmount :
    let s := alone 0x0040 (.lsl 8 9 10) [(10, 16)] [] Params.atReset
    s.params.shiftAmount = .free ∧ 16 ≤ (s.reg 10).toNat := by decide

theorem test_witness_Return :
    ∃ s t u : State, exec (.jsal 4) s = .next t ∧ ∀ r, u.reg r = t.reg r :=
  ⟨alone 0xFFFE (.jsal 4) [] [], _, _, rfl, fun _ => rfl⟩

theorem test_witness_Return_jalr :
    ∃ s t u : State, exec (.jalr 0) s = .next t ∧ ∀ r, u.reg r = t.reg r :=
  ⟨alone 0x0020 (.jalr 0) [(0, 0x0400)] [], _, _, rfl, fun _ => rfl⟩

/-- Two bytes at the top of memory, and one at address 0. -/
def topBytes (p : Params) (i : Instr) (regs : List (Reg × Word)) : State :=
  alone 0x0040 i regs [(0x0000, 0x33), (0xFFFE, 0x11), (0xFFFF, 0x22)] p

/-- A word load at an even address, the highest one. -/
theorem test_witness_Lw_even :
    let s := topBytes defaults (.lw 8 3 (-2)) []
    WordGoesTo s (eaNumber s 3 (-2)) 0xFFFE ∧ Readable s 0xFFFE 0x11 ∧ Readable s (0xFFFE + 1) 0x22 := by
  unfold WordGoesTo Readable Accessible; decide

/-- … at an odd one under `split`, wrapping to address 0 … -/
theorem test_witness_Lw_split :
    let s := topBytes { defaults with misalignedWord := .split } (.lw 8 3 (-1)) []
    WordGoesTo s (eaNumber s 3 (-1)) 0xFFFF ∧ Readable s 0xFFFF 0x22 ∧ Readable s (0xFFFF + 1) 0x33 := by
  unfold WordGoesTo Readable Accessible; decide

/-- … and at an odd one under `mask`. -/
theorem test_witness_Lw_mask :
    let s := topBytes { defaults with misalignedWord := .mask } (.lw 8 3 (-1)) []
    WordGoesTo s (eaNumber s 3 (-1)) 0xFFFE ∧ Readable s 0xFFFE 0x11 ∧ Readable s (0xFFFE + 1) 0x22 := by
  unfold WordGoesTo Readable Accessible; decide

theorem test_witness_Lb_and_Lbu :
    let s := topBytes defaults (.lb 8 3 (-1)) []
    Readable s (eaNumber s 3 (-1)) 0x22 := by
  unfold Readable Accessible; decide

theorem test_witness_Sw_even :
    let s := topBytes defaults (.sw 8 3 (-2)) []
    WordGoesTo s (eaNumber s 3 (-2)) 0xFFFE ∧ Accessible s 0xFFFE ∧ Accessible s (0xFFFE + 1) := by
  unfold WordGoesTo Accessible; decide

theorem test_witness_Sw_split :
    let s := topBytes { defaults with misalignedWord := .split } (.sw 8 3 (-1)) []
    WordGoesTo s (eaNumber s 3 (-1)) 0xFFFF ∧ Accessible s 0xFFFF ∧ Accessible s (0xFFFF + 1) := by
  unfold WordGoesTo Accessible; decide

theorem test_witness_Sw_mask :
    let s := topBytes { defaults with misalignedWord := .mask } (.sw 8 3 (-1)) []
    WordGoesTo s (eaNumber s 3 (-1)) 0xFFFE ∧ Accessible s 0xFFFE ∧ Accessible s (0xFFFE + 1) := by
  unfold WordGoesTo Accessible; decide

theorem test_witness_Sb :
    let s := topBytes defaults (.sb 8 3 (-1)) []
    (3 : Reg) ≠ 0 ∧ Accessible s (eaNumber s 3 (-1)) := by
  unfold Accessible; decide

theorem test_witness_Lwsp :
    let s := topBytes defaults (.lwsp 1 126) [(1, 0xFF80)]
    WordGoesTo s (eaSpNumber s 126) 0xFFFE ∧ Readable s 0xFFFE 0x11 ∧ Readable s (0xFFFE + 1) 0x22 := by
  unfold WordGoesTo Readable Accessible; decide

theorem test_witness_Lwsp_split :
    let s := topBytes { defaults with misalignedWord := .split } (.lwsp 8 0) [(1, 0xFFFF)]
    WordGoesTo s (eaSpNumber s 0) 0xFFFF ∧ Readable s 0xFFFF 0x22 ∧ Readable s (0xFFFF + 1) 0x33 := by
  unfold WordGoesTo Readable Accessible; decide

theorem test_witness_Lwsp_mask :
    let s := topBytes { defaults with misalignedWord := .mask } (.lwsp 8 0) [(1, 0xFFFF)]
    WordGoesTo s (eaSpNumber s 0) 0xFFFE ∧ Readable s 0xFFFE 0x11 ∧ Readable s (0xFFFE + 1) 0x22 := by
  unfold WordGoesTo Readable Accessible; decide

theorem test_witness_Swsp :
    let s := topBytes defaults (.swsp 1 0) [(1, 0x0100)]
    WordGoesTo s (eaSpNumber s 0) 0x0100 ∧ Accessible s 0x0100 ∧ Accessible s (0x0100 + 1) := by
  unfold WordGoesTo Accessible; decide

theorem test_witness_Pop :
    let s := topBytes defaults .nop [(1, 0x0000)]
    (0 : Reg) ≠ 1 ∧ (s.reg 1).toNat % 2 = 0 ∧ Accessible s (s.reg 1 - 2) ∧ Accessible s (s.reg 1 - 1) := by
  unfold Accessible; decide

theorem test_witness_LoadAfterStore :
    ∃ s t, exec (.sw 8 3 (-2)) s = .next t ∧ eaNumber t 3 (-2) = eaNumber s 3 (-2) :=
  ⟨topBytes defaults .nop [], _, rfl, rfl⟩

theorem test_witness_Frames :
    ∃ s t, exec (.sw 8 3 (-2)) s = .next t ∧ (0xFFFD#16).toNat ∉ storedBytes s (.sw 8 3 (-2)) ∧
      (0#16).toNat ∉ storedBytes s (.sw 8 3 (-2)) ∧ (8 : Reg) ∉ destinations (.sw 8 3 (-2)) ∧
        setsPc (.sw 8 3 (-2)) = false :=
  ⟨topBytes defaults .nop [], _, rfl, by decide, by decide, by decide, rfl⟩

theorem test_witness_Frames_load :
    ∃ s t, exec (.lb 8 3 (-2)) s = .next t ∧ 0xFFFE ∉ storedBytes s (.lb 8 3 (-2)) ∧
      (9 : Reg) ∉ destinations (.lb 8 3 (-2)) ∧ setsPc (.lb 8 3 (-2)) = false :=
  ⟨topBytes defaults .nop [], _, rfl, by decide, by decide, rfl⟩

theorem test_witness_MixedWidth :
    let s := topBytes defaults .nop []
    (0xFFFE#16).toNat % 2 = 0 ∧ Accessible s 0xFFFE ∧ Accessible s (0xFFFE + 1) := by
  unfold Accessible; decide

theorem test_witness_OddWordAddress :
    (eaNumber (topBytes defaults .nop []) 3 (-1)).toNat % 2 = 1 ∧
      (eaSpNumber (topBytes defaults .nop [(1, 1)]) 0).toNat % 2 = 1 ∧ (0xFFFF#16).toNat % 2 = 1 ∧
        (1#16).toNat % 2 = 1 ∧ defaults.misalignedWord = .fault := by decide

theorem test_witness_AccessFault :
    (high .nop []).declared 0x00FF = false ∧ Accessible (high .nop []) 0x0100 ∧
      (high .nop []).dataByte 0x0100 = none ∧ (high .nop []).declared 0x0100 = true := by
  unfold Accessible; decide

/-- The first byte of an access stops it: a load and a store just below DMEM_RANGE, a load of its first byte, which holds
no value, and a load of the image's first byte. -/
theorem test_witness_AccessFault_exec :
    let s := high .nop [(3, 0x0100), (1, 0x0040)] [⟨0x003E, 3⟩, ⟨0x0100, 0xFEFF⟩]
    (∃ d, dataAccess s (.lb 8 3 (-1)) = some d ∧ d.isWord = false ∧ d.StopsAt s d.ea (.fault (.accessFault 0x00FF))) ∧
    (∃ d, dataAccess s (.sw 8 3 (-2)) = some d ∧ d.isWord = true ∧ WordGoesTo s d.ea 0x00FE ∧
      d.StopsAt s 0x00FE (.fault (.accessFault 0x00FE))) ∧
    (∃ d, dataAccess s (.lw 8 3 0) = some d ∧ d.isWord = true ∧ WordGoesTo s d.ea 0x0100 ∧
      d.StopsAt s 0x0100 (.fault (.accessFault 0x0100))) ∧
    (∃ d, dataAccess s (.lwsp 8 0) = some d ∧ d.isWord = true ∧ WordGoesTo s d.ea 0x0040 ∧
      d.StopsAt s 0x0040 (.refused (.refusedCodeAccess 0x0040))) :=
  ⟨⟨_, rfl, rfl, .inl ⟨by decide, rfl⟩⟩, ⟨_, rfl, rfl, .inl (by decide), .inl ⟨by decide, rfl⟩⟩,
   ⟨_, rfl, rfl, .inl (by decide), .inr (.inr ⟨rfl, by unfold Accessible; decide, by decide, rfl⟩)⟩,
   ⟨_, rfl, rfl, .inl (by decide), .inr (.inl ⟨by decide, by decide, rfl, rfl⟩)⟩⟩

/-- The second byte stops it: a word store over the end of DMEM_RANGE, a word load whose second byte holds no value. -/
theorem test_witness_AccessFault_second :
    let s := { high .nop [(3, 0xFFFE)] [⟨0x0100, 0xFEFF⟩] with dmem := [(0x0100, 0x11)] }
    (∃ d, dataAccess s (.sw 8 3 0) = some d ∧ d.isWord = true ∧ WordGoesTo s d.ea 0xFFFE ∧ d.Passes s 0xFFFE ∧
      d.StopsAt s (0xFFFE + 1) (.fault (.accessFault 0xFFFF))) ∧
    (∃ d, dataAccess s (.lw 8 3 (0x102)) = some d ∧ d.isWord = true ∧ WordGoesTo s d.ea 0x0100 ∧ d.Passes s 0x0100 ∧
      d.StopsAt s (0x0100 + 1) (.fault (.accessFault 0x0101))) :=
  ⟨⟨_, rfl, rfl, .inl (by decide), ⟨by unfold Accessible; decide, by decide⟩, .inl ⟨by decide, rfl⟩⟩,
   ⟨_, rfl, rfl, .inl (by decide), ⟨by unfold Accessible; decide, by decide⟩,
    .inr (.inr ⟨rfl, by unfold Accessible; decide, by decide, rfl⟩)⟩⟩

/-- R37, R39 of `lb lbu lwsp swsp`, run. -/
theorem test_access_stops :
    faultOf (step (high (.lbu 8 3 0) [(3, 0x0100)])) = some (.accessFault 0x0100) ∧
      faultOf (step (high (.lwsp 8 0) [(1, 0x0100)])) = some (.accessFault 0x0100) ∧
        faultOf (step (high (.swsp 8 0) [(1, 0x00FE)])) = some (.accessFault 0x00FE) ∧
          refusalOf (step (alone 0x0040 (.lb 8 3 0) [(3, 0x0042)] [])) = some (.refusedCodeAccess 0x0042) := by decide

theorem test_witness_CodeIsImmutable :
    let s := alone 0x0040 (.sb 8 3 (-1)) [] []
    s.params.memOrg = .refuse ∧ s.inCode 0x0042 = true ∧ s.declared 0x0042 = true ∧ s.inCode 0x0043 = false ∧
      (pcAfter (step s)).isSome = true := by decide

theorem test_witness_FetchSeesAStore_unified :
    ∃ s t : State, s.params.memOrg = .unified ∧ s.inCode (0x0042#16).toNat = true ∧ s.writeByte 0x0042 0x77 = .next t :=
  ⟨alone 0x0040 (.sb 8 3 (-1)) [] [] { defaults with memOrg := .unified }, _, rfl, rfl, rfl⟩

theorem test_witness_FetchSeesAStore_split :
    let s := alone 0x0040 (.sb 8 3 0) [(3, 0x0041)] [] { defaults with memOrg := .split }
    s.params.memOrg = .split ∧ (pcAfter (step s)).isSome = true := by decide

/-- Every stop the spec names is reached: sections 3 and 5, tested above, and the fetch's second byte. -/
theorem test_witness_EveryStop :
    faultOf (step State.reset) = some (.fetchFault 0) ∧
      faultOf (step (Launch.state { imageBase := 0, image := [0x01], dmemRange := [] })) = some (.fetchFault 1) ∧
        faultOf (step (high (.lb 8 3 0) [(3, 0x00FF)])) = some (.accessFault 0x00FF) ∧
          faultOf (step (high (.lb 8 3 0) [(3, 0x0100)])) = some (.accessFault 0x0100) ∧
            refusalOf (step (high (.lsr2 8 9) [(9, 16)])) = some (.refusedShiftAmount 0x0040 16) ∧
              refusalOf (step (high (.swsp 8 0) [(1, 0x0101)])) = some (.misalignedFault 0x0101) := by decide

/-- A state with the invariant whose instruction reaches past the image. -/
theorem test_witness_EveryStop_fetch :
    ∃ s : State, s.Inv ∧ step s = .fault (.fetchFault 1) := by
  refine ⟨Launch.state { imageBase := 0, image := [0x01], dmemRange := [] }, ⟨by decide, by decide, by decide, ?_, ?_⟩,
    rfl⟩
  · intro a
    have h : (Launch.state { imageBase := 0, image := [0x01], dmemRange := [] }).imem = [(0, 0x01)] := by decide
    have h2 : (Launch.state { imageBase := 0, image := [0x01], dmemRange := [] }).imemRange = ⟨0, 1⟩ := by decide
    rw [h]
    rw [State.inCode, h2]
    by_cases h0 : a = 0 <;> simp [rangeHas, Memory.read, h0]
  · intro a
    have h : (Launch.state { imageBase := 0, image := [0x01], dmemRange := [] }).dmem = [] := by decide
    rw [h]
    simp [Memory.read]

theorem test_witness_NothingElseStops :
    Params.atReset.shiftAmount ≠ .refuse ∧ (∀ d b m, Instr.add 8 9 10 ≠ .lw d b m) ∧
      (∀ r m, Instr.add 8 9 10 ≠ .swsp r m) := ⟨by decide, by simp, by simp⟩

/-- The clauses of the word store, at the edges of DMEM_RANGE (0x0100 to 0xFFFE) and of IMEM_RANGE (0x0040, two
bytes). -/
theorem test_witness_WordStoreChecks :
    let s := high .nop [] [⟨0x003E, 3⟩, ⟨0x0100, 0xFEFF⟩]
    (1#16).toNat % 2 = 1 ∧ s.params.misalignedWord = .fault ∧ s.declared 0x00FE = false ∧
      (s.declared 0x0040 = true ∧ s.inCode 0x0040 = true ∧ s.params.memOrg = .refuse) ∧
        (Accessible s 0xFFFE ∧ s.declared 0xFFFF = false) ∧
          (WordGoesTo s 0xFFFE 0xFFFE ∧ WordGoesTo s 0x0040 0x0040 ∧ WordGoesTo s 0x00FE 0x00FE) := by
  unfold Accessible WordGoesTo; decide

/-- … and the last clause: the second byte of an odd word is the first of the image. -/
theorem test_witness_WordStoreChecks_second :
    let s := { high .nop [] [⟨0x003E, 3⟩] with params := { defaults with misalignedWord := .split } }
    WordGoesTo s 0x003F 0x003F ∧ Accessible s 0x003F ∧ s.declared (0x003F + 1) = true ∧
      s.inCode (0x003F + 1) = true ∧ s.params.memOrg = .refuse := by
  unfold Accessible WordGoesTo; decide

theorem test_witness_StepRuns :
    (high (.add 8 9 10) []).fetch = .next [0x01, 0x98, 0x0A] ∧
      decode defaults [0x01, 0x98, 0x0A] = .ok (.add 8 9 10, []) := ⟨rfl, rfl⟩

/-- Three bytes that wrap, two bytes, and an image that ends after each byte. -/
theorem test_witness_FetchTakes :
    let s := State.withFetchWord { State.reset with pc := 0xFFFF } 24 0x0A9801
    let t := Launch.state { imageBase := 0, image := [0x01, 0x98], dmemRange := [] }
    (s.inCode 0xFFFF = true ∧ Memory.read s.imem 0xFFFF = some 0x01 ∧ s.inCode 0 = true ∧
      Memory.read s.imem 0 = some 0x98 ∧ Memory.read s.imem 1 = some 0x0A) ∧
    (t.inCode 0 = true ∧ t.inCode 1 = true ∧ t.inCode 2 = false ∧ (0x01#8)[0] = true) ∧
    (State.reset.inCode 0 = false) ∧ (high .nop []).inCode 0x0041 = true ∧ (0x00#8)[0] = false ∧
    (Launch.state { imageBase := 0, image := [0x00], dmemRange := [] }).inCode 1 = false := by decide

theorem test_witness_ReservedWord_24 :
    let s := Launch.state { imageBase := 0, image := [0x01, 0x98, 0x1A], dmemRange := [] }
    s.fetch = .next [0x01, 0x98, 0x1A] ∧ Reserved24 s.params (word24 0x01 0x98 0x1A) ∧ (0x01#8)[0] = true :=
  ⟨rfl, by unfold Reserved24; decide, rfl⟩

theorem test_witness_ReservedWord_16 :
    let s := Launch.state { imageBase := 0, image := [0x00, 0x01], dmemRange := [] }
    s.fetch = .next [0x00, 0x01] ∧ Reserved16 (word16 0x00 0x01) ∧ (0x00#8)[0] = false :=
  ⟨rfl, by unfold Reserved16; decide, rfl⟩

theorem test_witness_Placed :
    decode State.reset.params (tableWordBytes 24 0x0A9801) = .ok (.add 8 9 10, []) ∧
      decode State.reset.params (tableWordBytes 16 0x98C0) = .ok (.mov 8 9, [0x00]) := ⟨rfl, rfl⟩

theorem test_witness_Ended :
    (alone 0x000D (.js 0) [] []).ended = true ∧ (alone 0x0010 (.beq 8 9 0) [(8, 7), (9, 7)] []).ended = true ∧
      (alone 0x0010 (.jr 8) [(8, 0x0010)] []).ended = true := by decide

/-- A launched state with the invariant, whose next step stores a byte. -/
theorem test_witness_Invariant :
    ∃ s t : State, s.Inv ∧ step s = .next t := by
  refine ⟨high (.sb 8 3 0) [(3, 0x0100)], _, ⟨by decide, by decide, by decide, ?_, ?_⟩, rfl⟩
  · intro a
    have h : (high (.sb 8 3 0) [(3, 0x0100)]).imem = [(0x0040, 0x35), (0x0041, 0x38), (0x0042, 0x00)] := by decide
    have h2 : (high (.sb 8 3 0) [(3, 0x0100)]).imemRange = ⟨0x0040, 3⟩ := by decide
    rw [h]
    simp only [State.inCode, h2, rangeHas, Bool.and_eq_true, decide_eq_true_eq, Memory.read]
    by_cases h40 : a = 0x0040
    · simp [h40]
    · by_cases h41 : a = 0x0041
      · simp [h41]
      · by_cases h42 : a = 0x0042
        · simp [h42]
        · simp only [h40, h41, h42, if_false]
          simp
          omega
  · intro a
    have h : (high (.sb 8 3 0) [(3, 0x0100)]).dmem = [] := by decide
    rw [h]
    simp [Memory.read]

theorem test_witness_LaunchStarts :
    ∃ l : Launch, ∃ s : State, l.start = .ok s ∧ l.data = [(0x0100, 0x11)] ∧ l.regs = [(15, 0xFFFF)] :=
  ⟨{ imageBase := 0xFFFE, image := [0x0E, 0x00], resetPc := 0xFFFE, dmemRange := [⟨0x0100, 1⟩],
     data := [(0x0100, 0x11)], regs := [(15, 0xFFFF)] }, _, rfl, rfl, rfl⟩

/-- What R204 refuses, at its boundaries; and the two kinds of launch it does not name. -/
theorem test_witness_LaunchRefuses :
    (∃ l : Launch, l.image = []) ∧ (∃ l : Launch, l.imageBase + l.image.length = 65537) ∧
      (∃ l : Launch, l.imageBase = 1 ∧ l.resetPc = 0) ∧
      (∃ l : Launch, l.params.memOrg = .free) ∧ (∃ l : Launch, l.params.misalignedWord = .free) ∧
      (∃ l : Launch, l.params.shiftAmount = .free) ∧
      (∃ l : Launch, ¬l.MustRefuse ∧ l.DataDeclared ∧ l.data = [(0xFFFF, 0x11)]) ∧
      (∃ l : Launch, ¬l.DataDeclared ∧ l.data = [(0x0101, 0x11)]) :=
  ⟨⟨{ imageBase := 0, image := [], dmemRange := [] }, rfl⟩,
   ⟨{ imageBase := 0xFFFF, image := [0, 0], dmemRange := [] }, rfl⟩,
   ⟨{ imageBase := 1, image := [0, 0], dmemRange := [] }, rfl, rfl⟩,
   ⟨{ imageBase := 0, image := [0, 0], dmemRange := [], params := { defaults with memOrg := .free } }, rfl⟩,
   ⟨{ imageBase := 0, image := [0, 0], dmemRange := [], params := { defaults with misalignedWord := .free } }, rfl⟩,
   ⟨{ imageBase := 0, image := [0, 0], dmemRange := [], params := { defaults with shiftAmount := .free } }, rfl⟩,
   ⟨{ imageBase := 0xFFFE, image := [0x0E, 0x00], resetPc := 0xFFFF, dmemRange := [⟨0xFFFF, 1⟩],
      data := [(0xFFFF, 0x11)] },
    by unfold Launch.MustRefuse; decide, by unfold Launch.DataDeclared; decide, rfl⟩,
   ⟨{ imageBase := 0, image := [0, 0], dmemRange := [⟨0x0100, 1⟩], data := [(0x0101, 0x11)] },
    by unfold Launch.DataDeclared; decide, rfl⟩⟩

theorem test_launch_refusals :
    (match Launch.start { imageBase := 0, image := [], dmemRange := [] } with
      | .ok _ => none | .error e => some e) = some .imageEmpty ∧
    (match Launch.start { imageBase := 0xFFFF, image := [0, 0], dmemRange := [], resetPc := 0xFFFF } with
      | .ok _ => none | .error e => some e) = some .imageTooHigh ∧
    (match Launch.start { imageBase := 1, image := [0, 0], dmemRange := [] } with
      | .ok _ => none | .error e => some e) = some .resetPcOutside ∧
    (match Launch.start { imageBase := 0, image := [0, 0], dmemRange := [], data := [(0x0100, 0)] } with
      | .ok _ => none | .error e => some e) = some .dataOutside ∧
    (match Launch.start { imageBase := 0, image := [0, 0], dmemRange := [], params := Params.atReset } with
      | .ok _ => none | .error e => some e) = some .parameterOutside := by decide

theorem test_witness_Unsettled :
    let s := alone 0x000D (.js 0) [] []
    settles s.params { defaults with memOrg := .split, misalignedWord := .mask, shiftAmount := .full } ∧
      ∃ t, Sys2Proof.core.run 3 s = .next t := ⟨by unfold settles; decide, _, rfl⟩

theorem test_witness_FreeParameter :
    let s := alone 0x000D (.js 0) [] [] Params.atReset
    s.params.misalignedWord = .free ∧ s.params.memOrg = .free ∧ ∃ t, step s = .next t := ⟨rfl, rfl, _, rfl⟩

theorem test_witness_OnlyAJump :
    ∃ s, exec (.js 0) s = .next s ∧ State.reg s 8 = State.reg s 9 ∧ State.reg s 8 = s.pc :=
  ⟨State.reset, rfl, rfl, rfl⟩

end Sys2Proof.Tests
end

section
/-! PROOFS. What an instruction that completes can have done, said once for all 52 instructions, and the three frame
statements that follow from it. -/

namespace Sys2Proof.Machine

/-! ## What a completed instruction did -/

/-- The length of an instruction's encoding, as the word that is added to pc (R8, R16). -/
def encodedLength (i : Instr) : Word := BitVec.ofNat 16 (encode i).length

/-- The next states an instruction can have, by how it ends, with what the model's own tables (`destinations`,
`setsPc`, `storedBytes`, `amountRegister`) say of an instruction that ends so. `exec_completes` ties it to `exec`. -/
inductive Completes (i : Instr) (s : State) : State → Prop
  /-- A computed or loaded value goes to the destination (R7, R8). -/
  | writes {rd : Reg} (v : Word) (dest : destinations i = [rd]) :
      Completes i s ((s.setReg rd v).advance (encodedLength i))
  /-- A register shift by 16 or more writes a free value (R116, log 6). -/
  | writesFree {rd r : Reg} (dest : destinations i = [rd]) (amount : amountRegister i = some r)
      (large : 16 ≤ (s.reg r).toNat) (free : s.params.shiftAmount = .free) :
      Completes i s ((s.draw.setReg rd (Config.freeValue s.draws)).advance (encodedLength i))
  /-- A branch, taken or not, or a jump that does not link (R120, R127, R161, R162). -/
  | jumps (target : Word) (sets : setsPc i = true) : Completes i s (s.setPc target)
  /-- A linking jump (R12, R128, R160, R163). -/
  | links (link target : Word) (dest : destinations i = [Reg.ra]) (sets : setsPc i = true) :
      Completes i s ((s.setReg Reg.ra link).setPc target)
  /-- A word store whose two bytes both passed their checks (R35). -/
  | storesWord (w v : Word) (bytes : storedBytes s i = [w.toNat, (w + 1#16).toNat])
      (first : s.checkByte w = .next ()) (second : s.checkByte (w + 1#16) = .next ()) :
      Completes i s ((s.putWord w v).advance (encodedLength i))
  /-- A byte store whose byte passed its checks (R35). -/
  | storesByte (a : Word) (b : Byte) (bytes : storedBytes s i = [a.toNat]) (passed : s.checkByte a = .next ()) :
      Completes i s ((s.putByte a.toNat b).advance (encodedLength i))
  /-- The advance alone: `nop` (R175). -/
  | advances : Completes i s (s.advance (encodedLength i))

/-! ## Each shared ending completes as `Completes` says -/

section Endings

variable {i : Instr} {s t : State} {rd : Reg}

theorem completes_of_writeReg {v : Word} (dest : destinations i = [rd])
    (h : writeReg (encodedLength i) rd v s = .next t) : Completes i s t := by
  cases h
  exact .writes v dest

theorem completes_of_shiftByReg {op : ShiftOp} {a : Word} {r : Reg} (dest : destinations i = [rd])
    (amount : amountRegister i = some r) (h : shiftByReg op (encodedLength i) rd a (s.reg r) s = .next t) :
    Completes i s t := by
  obtain ⟨x, rfl⟩ | ⟨large, free, rfl⟩ := shiftByReg_eq_next h
  · exact .writes x dest
  · exact .writesFree dest amount large free

theorem completes_of_loadWord {ea : Word} (dest : destinations i = [rd])
    (h : loadWord (encodedLength i) rd ea s = .next t) : Completes i s t := by
  obtain ⟨v, -, rfl⟩ := loadWord_eq_next.1 h
  exact .writes v dest

theorem completes_of_loadByte {ext : Byte → Word} {ea : Word} (dest : destinations i = [rd])
    (h : loadByte (encodedLength i) ext rd ea s = .next t) : Completes i s t := by
  obtain ⟨b, -, rfl⟩ := loadByte_eq_next.1 h
  exact .writes (ext b) dest

theorem completes_of_storeWord {ea v : Word} (bytes : storedBytes s i = wordBytes s ea)
    (h : storeWord (encodedLength i) ea v s = .next t) : Completes i s t := by
  obtain ⟨w, goes, first, second, rfl⟩ := storeWord_eq_next.1 h
  exact .storesWord w v (by rw [bytes, wordBytes, goes]) first second

theorem completes_of_storeByte {ea : Word} {b : Byte} (bytes : storedBytes s i = [ea.toNat])
    (h : storeByte (encodedLength i) ea b s = .next t) : Completes i s t := by
  obtain ⟨passed, rfl⟩ := storeByte_eq_next.1 h
  exact .storesByte ea b bytes passed

theorem completes_of_jumpTo {target : Word} (sets : setsPc i = true) (h : jumpTo target s = .next t) :
    Completes i s t := by
  cases h
  exact .jumps target sets

theorem completes_of_linkAndJump {link target : Word} (dest : destinations i = [Reg.ra]) (sets : setsPc i = true)
    (h : linkAndJump link target s = .next t) : Completes i s t := by
  cases h
  exact .links link target dest sets

end Endings

/-- Every instruction that completes ended in one of the shared ways, with the length of its own encoding and with
the registers, addresses and kind that the model's tables give it. -/
theorem exec_completes {i : Instr} {s t : State} (h : exec i s = .next t) : Completes i s t := by
  cases i with
  | add | sub | and | xor | or | addi | andi | xori | ori | li | lsli | lsri | asri
  | mov | add2 | sub2 | and2 | xor2 | or2 | addi2 | andi2 | lsi | lui | lsli2 | lsri2 | asri2 =>
    exact completes_of_writeReg rfl h
  | lsl | lsr | asr | lsl2 | lsr2 | asr2 => exact completes_of_shiftByReg rfl rfl h
  | lw | lwsp => exact completes_of_loadWord rfl h
  | lb | lbu => exact completes_of_loadByte rfl h
  | sw | swsp => exact completes_of_storeWord rfl h
  | sb => exact completes_of_storeByte rfl h
  | beq | bne | blt | bltu | ble | bleu | j | jr | js => exact completes_of_jumpTo rfl h
  | jal | jalr | jsal => exact completes_of_linkAndJump rfl rfl h
  | nop =>
    cases h
    exact .advances

/-! ## The frames -/

theorem Completes.reg_of_notMem {i : Instr} {s t : State} (h : Completes i s t) {r : Reg}
    (hr : r ∉ destinations i) : t.reg r = s.reg r := by
  cases h with
  | writes v dest =>
    rw [dest, List.mem_singleton] at hr
    rw [State.reg_advance, State.reg_setReg_other _ _ hr]
  | writesFree dest =>
    rw [dest, List.mem_singleton] at hr
    rw [State.reg_advance, State.reg_setReg_other _ _ hr, State.reg_draw]
  | links link target dest =>
    rw [dest, List.mem_singleton] at hr
    rw [State.reg_setPc, State.reg_setReg_other _ _ hr]
  | jumps | storesWord | storesByte | advances => simp

theorem Completes.sameLaunch {i : Instr} {s t : State} (h : Completes i s t) : SameLaunch s t := by
  cases h <;> simp [SameLaunch]

/-- The counter of free values moves only where a free value was written (log 24). -/
theorem Completes.draws {i : Instr} {s t : State} (h : Completes i s t) :
    t.draws = s.draws ∨ (t.draws = s.draws + 1 ∧ s.params.shiftAmount = .free) := by
  cases h with
  | writesFree dest amount large free => exact .inr ⟨by simp, free⟩
  | writes | jumps | links | storesWord | storesByte | advances => exact .inl (by simp)

theorem Completes.pc_of_not_setsPc {i : Instr} {s t : State} (h : Completes i s t) (hi : setsPc i = false) :
    t.pc = s.pc + encodedLength i := by
  cases h with
  | jumps target sets => simp [hi] at sets
  | links link target dest sets => simp [hi] at sets
  | writes | writesFree | storesWord | storesByte | advances => simp

theorem toNat_add_encodedLength (w : Word) (i : Instr) :
    (w + encodedLength i).toNat = (w.toNat + (encode i).length) % 65536 := by
  simp [encodedLength]

/-! ## The statements -/

/-- Settles O44: each ending writes the destination, x0 for a linking jump, or no register. -/
theorem onlyDestinationsChange : Obligations.OnlyDestinationsChange :=
  fun _ _ _ h _ hr => (exec_completes h).reg_of_notMem hr

/-- Settles O46: no ending touches what the launch fixed, and only a free shift draws. -/
theorem launchDataNeverChanges : Obligations.LaunchDataNeverChanges :=
  fun _ _ _ h => ⟨(exec_completes h).sameLaunch, (exec_completes h).draws⟩

/-- Settles O47: every ending of an instruction that sets no pc advances by the length of its encoding. -/
theorem straightLineCodeAdvancesByItsLength : Obligations.StraightLineCodeAdvancesByItsLength := by
  intro i s t h hi
  rw [(exec_completes h).pc_of_not_setsPc hi, toNat_add_encodedLength]

end Sys2Proof.Machine
end

section
/-! PROOFS. What a completed instruction does to the two memories: the bytes it leaves alone, and the invariant it
keeps. Both follow from `exec_completes`: only the two store endings write a byte, through `State.putByte`. -/

namespace Sys2Proof.Machine

/-! ## The bytes that stay -/

/-- A byte write leaves both maps alone at every other address. -/
theorem putByte_read_other (s : State) {a k : Nat} (b : Byte) (hk : k ≠ a) :
    Memory.read (s.putByte a b).imem k = Memory.read s.imem k ∧
      Memory.read (s.putByte a b).dmem k = Memory.read s.dmem k := by
  simp only [putByte_read_imem, putByte_read_dmem, hk, false_and, if_false, and_self]

theorem Completes.sameByte_of_notMem {i : Instr} {s t : State} (h : Completes i s t) {a : Nat}
    (ha : a ∉ storedBytes s i) : SameByte s t a := by
  cases h with
  | storesWord w v bytes =>
    rw [bytes, List.mem_pair, not_or] at ha
    obtain ⟨notFirst, notSecond⟩ := ha
    exact putWord_read_other s w v notFirst notSecond
  | storesByte w b bytes =>
    rw [bytes, List.mem_singleton] at ha
    exact putByte_read_other s b ha
  | writes | writesFree | jumps | links | advances => exact ⟨rfl, rfl⟩

/-- Settles O45: only the two store endings write a byte, and they write at `storedBytes`. -/
theorem onlyStoredBytesChange : Obligations.OnlyStoredBytesChange :=
  fun _ _ _ h _ ha => (exec_completes h).sameByte_of_notMem ha

/-! ## The invariant -/

/-- The invariant speaks of the two byte maps and the two ranges only. -/
theorem State.Inv.of_sameMemories {s t : State} (h : s.Inv) (imem : t.imem = s.imem) (dmem : t.dmem = s.dmem)
    (imemRange : t.imemRange = s.imemRange) (dmemRange : t.dmemRange = s.dmemRange) : t.Inv where
  imemWf := imem ▸ h.imemWf
  dmemWf := dmem ▸ h.dmemWf
  rangeFits := imemRange ▸ h.rangeFits
  imageFull a := by
    rw [State.inCode, imemRange, imem]
    exact h.imageFull a
  dataDeclared a := by
    rw [State.declared, dmemRange, dmem]
    exact h.dataDeclared a

theorem State.Inv.advance {s : State} (h : s.Inv) (len : Word) : (s.advance len).Inv :=
  h.of_sameMemories rfl rfl rfl rfl

theorem putByte_imem_wf {s : State} {a : Nat} (b : Byte) (h : Memory.wf s.imem = true) (ha : a < 65536) :
    Memory.wf (s.putByte a b).imem = true := by
  simp only [State.putByte]
  split
  · exact Memory.wf_write b h ha
  · exact h

theorem putByte_dmem_wf {s : State} {a : Nat} (b : Byte) (h : Memory.wf s.dmem = true) (ha : a < 65536) :
    Memory.wf (s.putByte a b).dmem = true := by
  simp only [State.putByte]
  split
  · exact h
  · exact Memory.wf_write b h ha

/-- What reaches the image is inside IMEM_RANGE (R39). -/
theorem inCode_of_toImage {s : State} {a : Nat} (h : s.toImage a = true) : s.inCode a = true :=
  (Bool.and_eq_true_iff.mp h).1

/-- A byte written at a 16-bit address of DMEM_RANGE keeps the invariant: in the image it replaces a byte that is
there, in data memory it lies where bytes may (R37, R39). -/
theorem State.Inv.putByte {s : State} (h : s.Inv) {a : Nat} (b : Byte) (ha : a < 65536)
    (declared : s.declared a = true) : (s.putByte a b).Inv where
  imemWf := putByte_imem_wf b h.imemWf ha
  dmemWf := putByte_dmem_wf b h.dmemWf ha
  rangeFits := h.rangeFits
  imageFull k := by
    rw [State.inCode_putByte, putByte_read_imem]
    split
    case isTrue written =>
      obtain ⟨rfl, toImage⟩ := written
      simp [inCode_of_toImage toImage]
    case isFalse => exact h.imageFull k
  dataDeclared k := by
    rw [State.declared_putByte, putByte_read_dmem]
    split
    case isTrue written =>
      obtain ⟨rfl, -⟩ := written
      exact fun _ => declared
    case isFalse => exact h.dataDeclared k

theorem declared_of_checkByte {s : State} {a : Word} (h : s.checkByte a = .next ()) : s.declared a.toNat = true :=
  (checkByte_eq_next.1 h).1

theorem State.Inv.putWord {s : State} (h : s.Inv) {w : Word} (v : Word) (first : s.declared w.toNat = true)
    (second : s.declared (w + 1#16).toNat = true) : (s.putWord w v).Inv :=
  (h.putByte _ w.isLt first).putByte _ (w + 1#16).isLt second

theorem Completes.inv {i : Instr} {s t : State} (h : Completes i s t) (hs : s.Inv) : t.Inv := by
  cases h with
  | storesWord w v bytes first second =>
    exact (hs.putWord v (declared_of_checkByte first) (declared_of_checkByte second)).advance _
  | storesByte a b bytes passed => exact (hs.putByte b a.isLt (declared_of_checkByte passed)).advance _
  | writes | writesFree | jumps | links | advances => exact hs.of_sameMemories rfl rfl rfl rfl

/-- Settles O54: a step that completes is an instruction that completes, and every ending keeps the invariant. -/
theorem stepKeepsTheInvariant : Obligations.StepKeepsTheInvariant := by
  intro s t hs hstep
  obtain ⟨_, i, _, -, -, hexec⟩ := step_eq_next.1 hstep
  exact (exec_completes hexec).inv hs

end Sys2Proof.Machine
end

section
/-! PROOFS. The spec's own words for addresses, bytes and checks (`Sys2Proof/Safety.lean`), tied once to the operations
the model computes with. -/

namespace Sys2Proof.Machine

/-! ## Effective addresses (R30) -/

/-- An address is a natural number modulo 65536, so adding words is adding their numbers modulo 65536. -/
theorem add_eq_ofInt (a b : Word) : a + b = BitVec.ofInt 16 (a.toNat + b.toInt) := by
  rw [BitVec.ofInt_add, BitVec.ofInt_natCast, BitVec.ofNat_toNat, BitVec.setWidth_eq, BitVec.ofInt_toInt]

theorem ea_eq_eaNumber (s : State) (base : Reg) (imm : BitVec 10) : s.ea base imm = eaNumber s base imm := by
  rw [State.ea, eaNumber, add_eq_ofInt, sext, BitVec.toInt_signExtend_of_le (by decide)]

theorem eaSp_eq_eaSpNumber (s : State) (imm : BitVec 7) : s.eaSp imm = eaSpNumber s imm := by
  apply BitVec.eq_of_toNat_eq
  simp [State.eaSp, eaSpNumber, zext]

/-! ## Odd and even word addresses (R36) -/

theorem bit0_eq_true_iff_odd (a : Word) : a[0] = true ↔ a.toNat % 2 = 1 := by
  simp [← BitVec.getLsbD_eq_getElem, BitVec.getLsbD, Nat.testBit_zero]

theorem bit0_eq_false_of_even {a : Word} (h : a.toNat % 2 = 0) : a[0] = false := by
  rw [← Bool.not_eq_true, bit0_eq_true_iff_odd]
  omega

/-- Clearing bit 0 of an odd address subtracts 1: the cleared address and 1 have no bit in common, so their sum is
their union, the address itself. -/
theorem clearBit0_of_odd {a : Word} (h : a.toNat % 2 = 1) : clearBit0 a = a - 1 := by
  have cleared : clearBit0 a = a &&& ~~~1#16 := rfl
  have disjoint : clearBit0 a &&& 1#16 = 0#16 := by simp [cleared, BitVec.and_assoc]
  have union : clearBit0 a ||| 1#16 = a := by
    ext i hi
    by_cases hi0 : i = 0
    · subst hi0
      simp [(bit0_eq_true_iff_odd a).2 h]
    · rw [cleared, BitVec.getElem_or, BitVec.getElem_and, BitVec.getElem_not, BitVec.getElem_one]
      simp [hi0]
  exact eq_sub_of_add_eq ((BitVec.add_eq_or_of_and_eq_zero _ _ disjoint).trans union)

theorem wordAddr_of_even {s : State} {a : Word} (h : a.toNat % 2 = 0) : s.wordAddr a = .next a :=
  wordAddr_even (bit0_eq_false_of_even h)

theorem wordAddr_of_split {s : State} {a : Word} (split : s.params.misalignedWord = .split) :
    s.wordAddr a = .next a := by
  simp [State.wordAddr, split]

theorem wordAddr_of_mask {s : State} {a : Word} (odd : a.toNat % 2 = 1) (mask : s.params.misalignedWord = .mask) :
    s.wordAddr a = .next (a - 1) := by
  simp [State.wordAddr, mask, (bit0_eq_true_iff_odd a).2 odd, clearBit0_of_odd odd]

theorem wordAddr_of_fault {s : State} {a : Word} (odd : a.toNat % 2 = 1) (fault : s.params.misalignedWord = .fault) :
    s.wordAddr a = .refused (.misalignedFault a) :=
  wordAddr_eq_refused.2 ⟨(bit0_eq_true_iff_odd a).2 odd, fault, rfl⟩

theorem wordAddr_of_wordGoesTo {s : State} {ea w : Word} (h : WordGoesTo s ea w) : s.wordAddr ea = .next w := by
  obtain ⟨even, rfl⟩ | ⟨-, split, rfl⟩ | ⟨odd, mask, below⟩ := h
  · exact wordAddr_of_even even
  · exact wordAddr_of_split split
  · have hw : w = ea - 1 := by bv_omega
    rw [wordAddr_of_mask odd mask, hw]

/-! ## The checks of a byte, and the bytes of a word (R32, R37, R39) -/

theorem checkByte_eq_next_iff_accessible {s : State} {a : Word} : s.checkByte a = .next () ↔ Accessible s a := by
  simp [checkByte_eq_next, Accessible, imp_not_comm]

theorem readByte_eq_next_iff_readable {s : State} {a : Word} {b : Byte} : s.readByte a = .next b ↔ Readable s a b := by
  rw [readByte_eq_next, checkByte_eq_next_iff_accessible, Readable]

theorem byteNumbers_eq (e : DataEndian) (v : Word) : byteNumbers e v = (firstByte e v, secondByte e v) := by
  have low : BitVec.ofNat 8 v.toNat = v.extractLsb' 0 8 := by
    apply BitVec.eq_of_toNat_eq
    simp
  have high : BitVec.ofNat 8 (v.toNat / 256) = v.extractLsb' 8 8 := by
    apply BitVec.eq_of_toNat_eq
    simp [Nat.shiftRight_eq_div_pow]
  cases e <;> simp [byteNumbers, firstByte, secondByte, low, high]

theorem wordNumber_eq (e : DataEndian) (b c : Byte) : wordNumber e b c = joinBytes e b c := by
  have append_eq (hi lo : Byte) : hi ++ lo = BitVec.ofNat 16 (256 * hi.toNat + lo.toNat) := by
    apply BitVec.eq_of_toNat_eq
    rw [BitVec.toNat_append, ← Nat.shiftLeft_add_eq_or_of_lt lo.isLt, Nat.shiftLeft_eq, BitVec.toNat_ofNat]
    have := hi.isLt
    have := lo.isLt
    omega
  cases e
  · rw [wordNumber, joinBytes, append_eq, Nat.add_comm]
  · rw [wordNumber, joinBytes, append_eq]

end Sys2Proof.Machine
end

section
/-! PROOFS. The same machine under other parameters: what completes under parameters that decline to choose completes
alike under any that choose (R39, R36, R116), and what completes under the model's own `free` completes under one of the
spec's values (logs 7, 8). Both are one simulation, `step_withParams`. -/

namespace Sys2Proof.Machine

/-! ## What the parameters leave alone -/

@[simp] theorem State.withParams_params (s : State) (q : Params) : (s.withParams q).params = q := rfl
@[simp] theorem State.withParams_pc (s : State) (q : Params) : (s.withParams q).pc = s.pc := rfl
@[simp] theorem State.declared_withParams (s : State) (q : Params) (a : Nat) :
    (s.withParams q).declared a = s.declared a := rfl
@[simp] theorem State.inCode_withParams (s : State) (q : Params) (a : Nat) :
    (s.withParams q).inCode a = s.inCode a := rfl
@[simp] theorem State.fetch_withParams (s : State) (q : Params) : (s.withParams q).fetch = s.fetch := rfl

theorem State.withParams_withParams (s : State) (p q : Params) : (s.withParams p).withParams q = s.withParams q := rfl

theorem State.withParams_of_params_eq {s : State} {q : Params} (h : s.params = q) : s.withParams q = s := by
  subst h
  rfl

theorem codeShared_withParams {s : State} {q : Params} (same : q.memOrg = s.params.memOrg) :
    (s.withParams q).codeShared = s.codeShared := by
  simp only [State.codeShared, State.withParams_params, same]

theorem wordAddr_withParams {s : State} {q : Params} (same : q.misalignedWord = s.params.misalignedWord) (a : Word) :
    (s.withParams q).wordAddr a = s.wordAddr a := by
  simp only [State.wordAddr, State.withParams_params, same]

/-! ## Parameters that let through whatever a state does -/

/-- Under `q` nothing stops that does not stop in `s`, and what does not stop there comes out alike: a byte access that
passes reaches the same memory, a word access goes to the same address, a shift has the same amount, and the bytes of an
instruction and of a word are read alike. -/
structure Admits (s : State) (q : Params) : Prop where
  org : s.params.memOrg = .refuse ∨ (q.memOrg ≠ .refuse ∧ (s.withParams q).codeShared = s.codeShared)
  word : ∀ a w : Word, s.wordAddr a = .next w → (s.withParams q).wordAddr a = .next w
  shift : s.params.shiftAmount = .refuse ∨ q.shiftAmount = s.params.shiftAmount
  endian : q.dataEndian = s.params.dataEndian
  sb : q.sbAdmitted = s.params.sbAdmitted
  j24 : q.j24 = s.params.j24
  link : q.jalLink = s.params.jalLink

section Simulation

variable {s t : State} {q : Params}

/-! ## Each shared operation, under parameters that let through what the state does -/

theorem Admits.checkByte (h : Admits s q) {a : Word} (passed : s.checkByte a = .next ()) :
    (s.withParams q).checkByte a = .next () := by
  obtain ⟨declared, notRefused⟩ := checkByte_eq_next.1 passed
  refine checkByte_eq_next.2 ⟨declared, fun ⟨inCode, refuse⟩ => ?_⟩
  obtain wasRefuse | ⟨notRefuse, -⟩ := h.org
  · exact notRefused ⟨inCode, wasRefuse⟩
  · exact notRefuse refuse

/-- An access that passes where MEM_ORG is left open is outside IMEM_RANGE, so it reaches data memory under every
organisation. -/
theorem Admits.toImage (h : Admits s q) {a : Word} (passed : s.checkByte a = .next ()) :
    (s.withParams q).toImage a.toNat = s.toImage a.toNat := by
  obtain refuse | ⟨-, shared⟩ := h.org
  · have outside : s.inCode a.toNat = false :=
      Bool.eq_false_iff.2 fun inCode => (checkByte_eq_next.1 passed).2 ⟨inCode, refuse⟩
    simp [State.toImage, outside]
  · simp [State.toImage, shared]

theorem Admits.dataByte (h : Admits s q) {a : Word} (passed : s.checkByte a = .next ()) :
    (s.withParams q).dataByte a.toNat = s.dataByte a.toNat := by
  simp only [State.dataByte, h.toImage passed]
  rfl

theorem putByte_withParams {a : Nat} (b : Byte) (same : (s.withParams q).toImage a = s.toImage a) :
    (s.withParams q).putByte a b = (s.putByte a b).withParams q := by
  simp only [State.putByte, same]
  rfl

theorem Admits.putWord (h : Admits s q) {w : Word} (v : Word) (first : s.checkByte w = .next ())
    (second : s.checkByte (w + 1#16) = .next ()) :
    (s.withParams q).putWord w v = (s.putWord w v).withParams q := by
  have afterFirst (b : Byte) : ((s.putByte w.toNat b).withParams q).toImage (w + 1#16).toNat =
      (s.putByte w.toNat b).toImage (w + 1#16).toNat := h.toImage second
  simp only [State.putWord, State.withParams_params, h.endian]
  rw [putByte_withParams _ (h.toImage first), putByte_withParams _ (afterFirst _)]

theorem Admits.readByte (h : Admits s q) {a : Word} {b : Byte} (read : s.readByte a = .next b) :
    (s.withParams q).readByte a = .next b := by
  obtain ⟨passed, found⟩ := readByte_eq_next.1 read
  exact readByte_eq_next.2 ⟨h.checkByte passed, (h.dataByte passed).trans found⟩

theorem Admits.readWord (h : Admits s q) {a v : Word} (read : s.readWord a = .next v) :
    (s.withParams q).readWord a = .next v := by
  obtain ⟨w, b0, b1, goes, first, second, rfl⟩ := readWord_eq_next.1 read
  exact readWord_eq_next.2
    ⟨w, b0, b1, h.word a w goes, h.readByte first, h.readByte second, by rw [State.withParams_params, h.endian]⟩

/-! ## Each shared ending -/

theorem Admits.shiftByReg (h : Admits s q) {op : ShiftOp} {len : Word} {rd : Reg} {a v : Word}
    (shifted : Machine.shiftByReg op len rd a v s = .next t) :
    Machine.shiftByReg op len rd a v (s.withParams q) = .next (t.withParams q) := by
  unfold Machine.shiftByReg at shifted ⊢
  split at shifted
  case isTrue small =>
    rw [if_pos small]
    cases shifted
    rfl
  case isFalse large =>
    rw [if_neg large]
    obtain refuse | same := h.shift
    · rw [refuse] at shifted
      cases shifted
    · rw [State.withParams_params, same]
      cases amount : s.params.shiftAmount <;> rw [amount] at shifted <;> cases shifted <;> rfl

theorem Admits.loadWord (h : Admits s q) {len : Word} {rd : Reg} {ea : Word}
    (loaded : Machine.loadWord len rd ea s = .next t) :
    Machine.loadWord len rd ea (s.withParams q) = .next (t.withParams q) := by
  obtain ⟨v, read, rfl⟩ := loadWord_eq_next.1 loaded
  exact loadWord_eq_next.2 ⟨v, h.readWord read, rfl⟩

theorem Admits.loadByte (h : Admits s q) {len : Word} {ext : Byte → Word} {rd : Reg} {ea : Word}
    (loaded : Machine.loadByte len ext rd ea s = .next t) :
    Machine.loadByte len ext rd ea (s.withParams q) = .next (t.withParams q) := by
  obtain ⟨b, read, rfl⟩ := loadByte_eq_next.1 loaded
  exact loadByte_eq_next.2 ⟨b, h.readByte read, rfl⟩

theorem Admits.storeWord (h : Admits s q) {len ea v : Word} (stored : Machine.storeWord len ea v s = .next t) :
    Machine.storeWord len ea v (s.withParams q) = .next (t.withParams q) := by
  obtain ⟨w, goes, first, second, rfl⟩ := storeWord_eq_next.1 stored
  exact storeWord_eq_next.2
    ⟨w, h.word ea w goes, h.checkByte first, h.checkByte second, by rw [h.putWord v first second]; rfl⟩

theorem Admits.storeByte (h : Admits s q) {len ea : Word} {b : Byte} (stored : Machine.storeByte len ea b s = .next t) :
    Machine.storeByte len ea b (s.withParams q) = .next (t.withParams q) := by
  obtain ⟨passed, rfl⟩ := storeByte_eq_next.1 stored
  exact storeByte_eq_next.2 ⟨h.checkByte passed, by rw [putByte_withParams b (h.toImage passed)]; rfl⟩

/-! ## Every instruction, the decoder and the step -/

theorem Admits.exec (h : Admits s q) {i : Instr} (done : Machine.exec i s = .next t) :
    Machine.exec i (s.withParams q) = .next (t.withParams q) := by
  cases i with
  | add | sub | and | xor | or | addi | andi | xori | ori | li | lsli | lsri | asri
  | mov | add2 | sub2 | and2 | xor2 | or2 | addi2 | andi2 | lsi | lui | lsli2 | lsri2 | asri2
  | beq | bne | blt | bltu | ble | bleu | j | jr | js | jalr | jsal | nop =>
    cases done
    rfl
  | jal imm =>
    cases done
    simp only [Machine.exec, execJal, State.withParams_params, h.link]
    rfl
  | lsl | lsr | asr | lsl2 | lsr2 | asr2 => exact h.shiftByReg done
  | lw | lwsp => exact h.loadWord done
  | lb | lbu => exact h.loadByte done
  | sw | swsp => exact h.storeWord done
  | sb => exact h.storeByte done

theorem decode24_congr {p q : Params} (sb : q.sbAdmitted = p.sbAdmitted) (j24 : q.j24 = p.j24) (w : BitVec 24) :
    decode24 q w = decode24 p w := by
  simp only [decode24, formatLiSb, formatJ24, sb, j24]

/-- The decoder looks at SB_ADMITTED and J24 only (R76, R77). -/
theorem decode_congr {p q : Params} (sb : q.sbAdmitted = p.sbAdmitted) (j24 : q.j24 = p.j24) (bytes : List Byte) :
    decode q bytes = decode p bytes := by
  unfold decode
  simp only [decode24_congr sb j24]

theorem step_withParams (h : Admits s q) (stepped : step s = .next t) :
    step (s.withParams q) = .next (t.withParams q) := by
  obtain ⟨bytes, i, rest, fetched, decoded, done⟩ := step_eq_next.1 stepped
  exact step_eq_next.2 ⟨bytes, i, rest, fetched, (decode_congr h.sb h.j24 bytes).trans decoded, h.exec done⟩

theorem sameLaunch_of_step (stepped : step s = .next t) : SameLaunch s t := by
  obtain ⟨_, i, _, -, -, done⟩ := step_eq_next.1 stepped
  exact (exec_completes done).sameLaunch

/-- Where each of two parameter sets admits what the other does, the two machines step alike. -/
theorem step_eq_next_iff_withParams (there : Admits s q) (back : Admits (s.withParams q) s.params) :
    step s = .next t ↔ t.params = s.params ∧ step (s.withParams q) = .next (t.withParams q) := by
  constructor
  · exact fun stepped => ⟨(sameLaunch_of_step stepped).1, step_withParams there stepped⟩
  · rintro ⟨params, stepped⟩
    have h := step_withParams back stepped
    rwa [State.withParams_withParams, State.withParams_withParams, State.withParams_of_params_eq rfl,
      State.withParams_of_params_eq params] at h

end Simulation

/-! ## A run of a machine that declined to choose -/

/-- Giving a parameter a value where a launch declined to give one admits all that the launch admitted. -/
theorem admits_of_settles {s : State} {q : Params} (h : settles s.params q) : Admits s q := by
  obtain ⟨org, misaligned, shift, endian, sb, j24, link⟩ := h
  refine ⟨?_, ?_, shift, endian, sb, j24, link⟩
  · obtain refuse | same := org
    · exact .inl refuse
    · by_cases refuse : s.params.memOrg = .refuse
      · exact .inl refuse
      · exact .inr ⟨by rwa [same], codeShared_withParams same⟩
  · intro a w goes
    obtain fault | same := misaligned
    · obtain even | odd := Nat.mod_two_eq_zero_or_one a.toNat
      · rw [wordAddr_of_even even] at goes ⊢
        exact goes
      · rw [wordAddr_of_fault odd fault] at goes
        cases goes
    · rwa [wordAddr_withParams same]

theorem run_succ_eq_next (M : Host.Core) {k : Nat} {s t : M.State} :
    M.run (k + 1) s = .next t ↔ ∃ u, M.step s = .next u ∧ M.run k u = .next t := by
  rw [Host.Core.run]
  cases M.step s <;> simp

/-- Settles O58, by induction on the number of steps: each is simulated (`step_withParams`), and the parameters that
have to be settled are still those of the first state. -/
theorem unsettledRunIsARunOfEverySettlement : Obligations.UnsettledRunIsARunOfEverySettlement := by
  intro k
  induction k with
  | zero =>
    intro s t q _ run
    cases run
    exact ⟨rfl, rfl⟩
  | succ k ih =>
    intro s t q settled run
    obtain ⟨u, stepped, run⟩ := (run_succ_eq_next Sys2Proof.core).1 run
    have params : u.params = s.params := (sameLaunch_of_step stepped).1
    obtain ⟨rest, run⟩ := ih u t q (params ▸ settled) run
    exact ⟨rest.trans params,
      (run_succ_eq_next Sys2Proof.core).2 ⟨u.withParams q, step_withParams (admits_of_settles settled) stepped, run⟩⟩

/-! ## A parameter left free -/

/-- The value of MISALIGNED_WORD that `free` acts as (log 7). -/
def freeMisalignedWord : MisalignedWord := if Config.misalignedMasks then .mask else .split

/-- The value of MEM_ORG that `free` acts as (log 8). -/
def freeMemOrg : MemOrg := if Config.codeShared then .unified else .split

theorem wordAddr_freeMisalignedWord {s : State} (free : s.params.misalignedWord = .free) (a : Word) :
    (s.withParams { s.params with misalignedWord := freeMisalignedWord }).wordAddr a = s.wordAddr a := by
  simp only [State.wordAddr, State.withParams_params, free, freeMisalignedWord]
  cases Config.misalignedMasks <;> rfl

theorem codeShared_freeMemOrg {s : State} (free : s.params.memOrg = .free) :
    (s.withParams { s.params with memOrg := freeMemOrg }).codeShared = s.codeShared := by
  simp only [State.codeShared, State.withParams_params, free, freeMemOrg]
  cases Config.codeShared <;> rfl

theorem admits_of_alike {s : State} {o : MemOrg} {m : MisalignedWord}
    (refuse : s.params.memOrg = .refuse ↔ o = .refuse)
    (shared : (s.withParams { s.params with memOrg := o, misalignedWord := m }).codeShared = s.codeShared)
    (word : ∀ a, (s.withParams { s.params with memOrg := o, misalignedWord := m }).wordAddr a = s.wordAddr a) :
    Admits s { s.params with memOrg := o, misalignedWord := m } where
  org := by
    by_cases refused : s.params.memOrg = .refuse
    · exact .inl refused
    · exact .inr ⟨fun hq => refused (refuse.2 hq), shared⟩
  word a w goes := (word a).trans goes
  shift := .inr rfl
  endian := rfl
  sb := rfl
  j24 := rfl
  link := rfl

/-- Two values of MEM_ORG and of MISALIGNED_WORD that come out alike everywhere let the same through both ways. -/
theorem step_eq_next_iff_of_alike {s t : State} {o : MemOrg} {m : MisalignedWord}
    (refuse : s.params.memOrg = .refuse ↔ o = .refuse)
    (shared : (s.withParams { s.params with memOrg := o, misalignedWord := m }).codeShared = s.codeShared)
    (word : ∀ a, (s.withParams { s.params with memOrg := o, misalignedWord := m }).wordAddr a = s.wordAddr a) :
    step s = .next t ↔ t.params = s.params ∧
      step (s.withParams { s.params with memOrg := o, misalignedWord := m }) =
        .next (t.withParams { s.params with memOrg := o, misalignedWord := m }) :=
  step_eq_next_iff_withParams (admits_of_alike refuse shared word)
    (admits_of_alike (s := s.withParams { s.params with memOrg := o, misalignedWord := m }) (o := s.params.memOrg)
      (m := s.params.misalignedWord) refuse.symm shared.symm fun a => (word a).symm)

theorem freeMemOrg_ne_refuse : freeMemOrg ≠ .refuse := by
  unfold freeMemOrg
  split <;> decide

/-- Settles O59: the opaque constants that `free` consults choose one of the spec's two values each, and the machine
with that value in place of `free` admits the same accesses both ways. -/
theorem freeParameterIsOneOfTheListedValues : Obligations.FreeParameterIsOneOfTheListedValues := by
  refine ⟨⟨freeMisalignedWord, ?_, fun s t free => ?_⟩, freeMemOrg, ?_, fun s t free => ?_⟩
  · cases h : Config.misalignedMasks <;> simp [freeMisalignedWord, h]
  · exact step_eq_next_iff_of_alike (o := s.params.memOrg) Iff.rfl (codeShared_withParams rfl)
      (wordAddr_freeMisalignedWord free)
  · cases h : Config.codeShared <;> simp [freeMemOrg, h]
  · exact step_eq_next_iff_of_alike (m := s.params.misalignedWord) (by simp [free, freeMemOrg_ne_refuse])
      (codeShared_freeMemOrg free) (wordAddr_withParams rfl)

end Sys2Proof.Machine
end

section
/-! PROOFS. Loads and stores: each as a shared operation at the effective address in the spec's words, how their byte
checks end them, and what a load finds after a store. -/

namespace Sys2Proof.Machine

/-! ## The seven loads and stores at their effective addresses (R131 to R135, R170, R171) -/

theorem exec_lw (data base : Reg) (imm : BitVec 10) (s : State) :
    exec (.lw data base imm) s = loadWord 3#16 data (eaNumber s base imm) s := by
  rw [← ea_eq_eaNumber]
  rfl

theorem exec_lb (data base : Reg) (imm : BitVec 10) (s : State) :
    exec (.lb data base imm) s = loadByte 3#16 sext data (eaNumber s base imm) s := by
  rw [← ea_eq_eaNumber]
  rfl

theorem exec_lbu (data base : Reg) (imm : BitVec 10) (s : State) :
    exec (.lbu data base imm) s = loadByte 3#16 zext data (eaNumber s base imm) s := by
  rw [← ea_eq_eaNumber]
  rfl

theorem exec_sw (data base : Reg) (imm : BitVec 10) (s : State) :
    exec (.sw data base imm) s = storeWord 3#16 (eaNumber s base imm) (s.reg data) s := by
  rw [← ea_eq_eaNumber]
  rfl

theorem exec_sb (data base : Reg) (imm : BitVec 10) (s : State) :
    exec (.sb data base imm) s = storeByte 3#16 (eaNumber s base imm) ((s.reg data).extractLsb' 0 8) s := by
  rw [← ea_eq_eaNumber]
  rfl

theorem exec_lwsp (rd : Reg) (imm : BitVec 7) (s : State) :
    exec (.lwsp rd imm) s = loadWord 2#16 rd (eaSpNumber s imm) s := by
  rw [← eaSp_eq_eaSpNumber]
  rfl

theorem exec_swsp (rs : Reg) (imm : BitVec 7) (s : State) :
    exec (.swsp rs imm) s = storeWord 2#16 (eaSpNumber s imm) (s.reg rs) s := by
  rw [← eaSp_eq_eaSpNumber]
  rfl

/-! ## An odd word address (R36) -/

theorem loadWord_of_misaligned {s : State} {len ea : Word} {rd : Reg} (odd : ea.toNat % 2 = 1)
    (fault : s.params.misalignedWord = .fault) : loadWord len rd ea s = .refused (.misalignedFault ea) :=
  loadWord_eq_refused.2 (readWord_eq_refused.2 (.inl (wordAddr_of_fault odd fault)))

theorem storeWord_of_misaligned {s : State} {len ea v : Word} (odd : ea.toNat % 2 = 1)
    (fault : s.params.misalignedWord = .fault) : storeWord len ea v s = .refused (.misalignedFault ea) :=
  storeWord_eq_refused.2 (writeWord_eq_refused.2 (.inl (wordAddr_of_fault odd fault)))

/-- Settles O37: alignment is the first thing a word access looks at, before any byte of it. -/
theorem oddWordAddressFollowsTheParameter : Obligations.OddWordAddressFollowsTheParameter := by
  refine ⟨rfl, fun r base imm imm7 s => ⟨fun fault => ⟨fun odd => ?_, fun odd => ?_⟩, fun ea odd => ⟨?_, ?_⟩⟩⟩
  · rw [exec_lw, exec_sw]
    exact ⟨loadWord_of_misaligned odd fault, storeWord_of_misaligned odd fault⟩
  · rw [exec_lwsp, exec_swsp]
    exact ⟨loadWord_of_misaligned odd fault, storeWord_of_misaligned odd fault⟩
  · exact wordAddr_of_split
  · exact wordAddr_of_mask odd

/-! ## Where the checks of a byte stop (R37, R39, R183 step 7) -/

theorem andThen_assoc {α β γ : Type} (r : Res α) (f : α → Res β) (g : β → Res γ) :
    andThen (andThen r f) g = andThen r fun a => andThen (f a) g := by
  cases r <;> rfl

/-- A load does nothing after a byte whose checks stop. -/
theorem DataAccess.StopsAt.andThen_readByte {d : DataAccess} {s : State} {a : Word} {r : Res State}
    (h : d.StopsAt s a r) (f : Byte → Res State) : andThen (s.readByte a) f = r := by
  obtain ⟨undeclared, rfl⟩ | ⟨declared, inCode, refuse, rfl⟩ | ⟨-, accessible, empty, rfl⟩ := h
  · rw [readByte_eq_fault.2 ⟨rfl, .inl undeclared⟩, andThen_fault]
  · rw [readByte_eq_refused.2 (checkByte_eq_refused.2 ⟨declared, inCode, refuse, rfl⟩), andThen_refused]
  · rw [readByte_eq_fault.2 ⟨rfl, .inr ⟨checkByte_eq_next_iff_accessible.2 accessible, empty⟩⟩, andThen_fault]

/-- A store does nothing after a byte whose checks stop; that the byte holds no value is no stop of a store. -/
theorem DataAccess.StopsAt.andThen_checkByte {d : DataAccess} {s : State} {a : Word} {r : Res State}
    (h : d.StopsAt s a r) (store : d.isLoad = false) (f : Unit → Res State) : andThen (s.checkByte a) f = r := by
  obtain ⟨undeclared, rfl⟩ | ⟨declared, inCode, refuse, rfl⟩ | ⟨load, -⟩ := h
  · rw [checkByte_eq_fault.2 ⟨undeclared, rfl⟩, andThen_fault]
  · rw [checkByte_eq_refused.2 ⟨declared, inCode, refuse, rfl⟩, andThen_refused]
  · simp [store] at load

theorem DataAccess.Passes.checkByte {d : DataAccess} {s : State} {a : Word} (h : d.Passes s a) :
    s.checkByte a = .next () :=
  checkByte_eq_next_iff_accessible.2 h.1

theorem DataAccess.Passes.readByte {d : DataAccess} {s : State} {a : Word} (h : d.Passes s a)
    (load : d.isLoad = true) : ∃ b, s.readByte a = .next b := by
  obtain ⟨accessible, holds⟩ := h
  obtain ⟨b, found⟩ := Option.ne_none_iff_exists'.1 (holds load)
  exact ⟨b, readByte_eq_next_iff_readable.2 ⟨accessible, found⟩⟩

/-- `x` ends as the checks of the access `d` end: at its byte, or at the first of its word's two bytes that does not
pass. -/
def DataAccess.Ends (d : DataAccess) (s : State) (x : Res State) : Prop :=
  ∀ r : Res State,
    (d.isWord = false → d.StopsAt s d.ea r → x = r) ∧
      (d.isWord = true → ∀ w, WordGoesTo s d.ea w →
        (d.StopsAt s w r → x = r) ∧ (d.Passes s w → d.StopsAt s (w + 1) r → x = r))

theorem loadByte_ends (len : Word) (ext : Byte → Word) (rd : Reg) (ea : Word) (s : State) :
    DataAccess.Ends ⟨true, false, ea⟩ s (loadByte len ext rd ea s) := by
  refine fun r => ⟨fun _ stops => ?_, nofun⟩
  rw [loadByte, stops.andThen_readByte]

theorem storeByte_ends (len ea : Word) (b : Byte) (s : State) :
    DataAccess.Ends ⟨false, false, ea⟩ s (storeByte len ea b s) := by
  refine fun r => ⟨fun _ stops => ?_, nofun⟩
  rw [storeByte, State.writeByte, andThen_assoc, stops.andThen_checkByte rfl]

theorem loadWord_ends (len : Word) (rd : Reg) (ea : Word) (s : State) :
    DataAccess.Ends ⟨true, true, ea⟩ s (loadWord len rd ea s) := by
  refine fun r => ⟨nofun, fun _ w goes => ?_⟩
  rw [loadWord, State.readWord, wordAddr_of_wordGoesTo goes, andThen_next, andThen_assoc]
  refine ⟨fun stops => stops.andThen_readByte _, fun passes stops => ?_⟩
  obtain ⟨b, read⟩ := passes.readByte rfl
  rw [read, andThen_next, andThen_assoc]
  exact stops.andThen_readByte _

theorem storeWord_ends (len ea v : Word) (s : State) :
    DataAccess.Ends ⟨false, true, ea⟩ s (storeWord len ea v s) := by
  refine fun r => ⟨nofun, fun _ w goes => ?_⟩
  rw [storeWord, State.writeWord, wordAddr_of_wordGoesTo goes, andThen_next, andThen_assoc]
  refine ⟨fun stops => stops.andThen_checkByte rfl _, fun passes stops => ?_⟩
  rw [passes.checkByte, andThen_next, andThen_assoc]
  exact stops.andThen_checkByte rfl _

/-- Every load and store ends as the checks of its access do. -/
theorem exec_ends {i : Instr} {s : State} {d : DataAccess} (access : dataAccess s i = some d) :
    d.Ends s (exec i s) := by
  cases i <;> cases access
  case lw => rw [exec_lw]; exact loadWord_ends _ _ _ _
  case lb => rw [exec_lb]; exact loadByte_ends _ _ _ _ _
  case lbu => rw [exec_lbu]; exact loadByte_ends _ _ _ _ _
  case sw => rw [exec_sw]; exact storeWord_ends _ _ _ _
  case sb => rw [exec_sb]; exact storeByte_ends _ _ _ _
  case lwsp => rw [exec_lwsp]; exact loadWord_ends _ _ _ _
  case swsp => rw [exec_swsp]; exact storeWord_ends _ _ _ _

theorem readByte_putByte_self {s : State} {a : Word} (b : Byte) (passed : s.checkByte a = .next ()) :
    (s.putByte a.toNat b).readByte a = .next b :=
  readByte_eq_next.2 ⟨passed, by rw [dataByte_putByte, if_pos rfl]⟩

/-- Settles O38: the byte operations by their own laws, the instructions by `exec_ends`. -/
theorem accessFaultOutsideDataMemory : Obligations.AccessFaultOutsideDataMemory := by
  refine ⟨fun s a b => ⟨fun undeclared => ?_, fun accessible empty => ?_⟩, fun i s d r access => exec_ends access r⟩
  · exact ⟨readByte_eq_fault.2 ⟨rfl, .inl undeclared⟩,
      writeByte_eq_fault.2 (checkByte_eq_fault.2 ⟨undeclared, rfl⟩)⟩
  · have passed := checkByte_eq_next_iff_accessible.2 accessible
    exact ⟨readByte_eq_fault.2 ⟨rfl, .inr ⟨passed, empty⟩⟩, s.putByte a.toNat b,
      writeByte_eq_next.2 ⟨passed, rfl⟩, readByte_putByte_self b passed⟩

/-! ## What a load finds after a store (R41, R46) -/

theorem readByte_putWord_first {s : State} {w : Word} (v : Word) (passed : s.checkByte w = .next ()) :
    (s.putWord w v).readByte w = .next (firstByte s.params.dataEndian v) :=
  readByte_eq_next.2 ⟨passed, by rw [dataByte_putWord, if_neg (toNat_ne_toNat_add_one w).symm, if_pos rfl]⟩

theorem readByte_putWord_second {s : State} {w : Word} (v : Word) (passed : s.checkByte (w + 1#16) = .next ()) :
    (s.putWord w v).readByte (w + 1#16) = .next (secondByte s.params.dataEndian v) :=
  readByte_eq_next.2 ⟨passed, by rw [dataByte_putWord, if_pos rfl]⟩

/-- A word read where a word was written, by whatever way the address came about, gives the word (R41). -/
theorem readWord_putWord {s : State} {ea w : Word} (v : Word) (goes : s.wordAddr ea = .next w)
    (first : s.checkByte w = .next ()) (second : s.checkByte (w + 1#16) = .next ()) :
    (s.putWord w v).readWord ea = .next v :=
  readWord_eq_next.2 ⟨w, _, _, goes, readByte_putWord_first v first, readByte_putWord_second v second,
    by rw [State.putWord_params, joinBytes_first_second]⟩

/-- Settles O34: the load goes to the word address the store went to, where both bytes passed their checks. -/
theorem loadAfterStoreGivesTheValue : Obligations.LoadAfterStoreGivesTheValue := by
  intro rs rd base base' imm imm' s t stored sameAddress
  rw [exec_sw] at stored
  obtain ⟨w, goes, first, second, rfl⟩ := storeWord_eq_next.1 stored
  have read : ((s.putWord w (s.reg rs)).advance 3#16).readWord (eaNumber s base imm) = .next (s.reg rs) := by
    rw [State.readWord_advance, readWord_putWord _ goes first second]
  rw [exec_lw, sameAddress]
  exact ⟨_, loadWord_eq_next.2 ⟨s.reg rs, read, rfl⟩, by rw [State.reg_advance, State.reg_setReg_self]⟩

theorem checkByte_of_sameLaunch {s t : State} (h : SameLaunch s t) (a : Word) : t.checkByte a = s.checkByte a := by
  obtain ⟨params, imemRange, dmemRange⟩ := h
  unfold State.checkByte State.declared State.inCode
  rw [params, imemRange, dmemRange]

theorem dataByte_of_sameByte {s t : State} {a : Nat} (launch : SameLaunch s t) (same : SameByte s t a) :
    t.dataByte a = s.dataByte a := by
  obtain ⟨params, imemRange, -⟩ := launch
  obtain ⟨imem, dmem⟩ := same
  unfold State.dataByte State.toImage State.inCode State.codeShared
  rw [params, imemRange, imem, dmem]

theorem readByte_of_sameByte {s t : State} {a : Word} (launch : SameLaunch s t) (same : SameByte s t a.toNat) :
    t.readByte a = s.readByte a := by
  rw [State.readByte, State.readByte, checkByte_of_sameLaunch launch, dataByte_of_sameByte launch same]

/-- Settles O35: a byte read depends on what the launch fixed and on the two maps at its address alone, and the frame of
a completed instruction keeps these. -/
theorem storeElsewhereIsNotSeen : Obligations.StoreElsewhereIsNotSeen :=
  fun i s t a done elsewhere =>
    readByte_of_sameByte (exec_completes done).sameLaunch (onlyStoredBytesChange i s t done a.toNat elsewhere)

/-- Settles O36: the address is even, so a word access goes to it under every MISALIGNED_WORD. -/
theorem mixedWidthAccessesSeeTheSameBytes : Obligations.MixedWidthAccessesSeeTheSameBytes := by
  intro v b c s ea even accessible accessible'
  have first : s.checkByte ea = .next () := checkByte_eq_next_iff_accessible.2 accessible
  have second : s.checkByte (ea + 1#16) = .next () := checkByte_eq_next_iff_accessible.2 accessible'
  rw [byteNumbers_eq, wordNumber_eq]
  refine ⟨⟨s.putWord ea v, ?_, readByte_putWord_first v first, readByte_putWord_second v second⟩,
    s.putByte ea.toNat b, (s.putByte ea.toNat b).putByte (ea + 1#16).toNat c, ?_, ?_, ?_⟩
  · exact writeWord_eq_next.2 ⟨ea, wordAddr_of_even even, first, second, rfl⟩
  · exact writeByte_eq_next.2 ⟨first, rfl⟩
  · exact writeByte_eq_next.2 ⟨second, rfl⟩
  · have firstKept : ((s.putByte ea.toNat b).putByte (ea + 1#16).toNat c).readByte ea = .next b :=
      readByte_eq_next.2
        ⟨first, by rw [dataByte_putByte, if_neg (toNat_ne_toNat_add_one ea).symm, dataByte_putByte, if_pos rfl]⟩
    exact readWord_eq_next.2 ⟨ea, b, c, wordAddr_of_even even, firstKept, readByte_putByte_self c second, rfl⟩

end Sys2Proof.Machine
end

section
/-! PROOFS. The image: which steps leave it alone under each MEM_ORG, and what is fetched from it. -/

namespace Sys2Proof.Machine

/-! ## When a store reaches the image (R39, R44) -/

theorem toImage_of_refuse {s : State} {a : Word} (refuse : s.params.memOrg = .refuse)
    (passed : s.checkByte a = .next ()) : s.toImage a.toNat = false := by
  have outside : s.inCode a.toNat = false := (checkByte_eq_next_iff_accessible.1 passed).2 refuse
  rw [State.toImage, outside, Bool.false_and]

theorem toImage_of_split {s : State} (a : Nat) (split : s.params.memOrg = .split) : s.toImage a = false := by
  simp [State.toImage, State.codeShared, split]

theorem toImage_of_unified {s : State} (a : Nat) (unified : s.params.memOrg = .unified) : s.toImage a = s.inCode a := by
  simp [State.toImage, State.codeShared, unified]

theorem putByte_imem_of_not_toImage {s : State} {a : Nat} (b : Byte) (h : s.toImage a = false) :
    (s.putByte a b).imem = s.imem := by
  simp [State.putByte, h]

theorem putWord_imem_of_not_toImage {s : State} {w : Word} (v : Word) (first : s.toImage w.toNat = false)
    (second : s.toImage (w + 1#16).toNat = false) : (s.putWord w v).imem = s.imem := by
  rw [State.putWord, putByte_imem_of_not_toImage _ (by rwa [State.toImage_putByte]),
    putByte_imem_of_not_toImage _ first]

/-- An instruction writes the image only through a byte access that passes its checks and reaches the image. -/
theorem Completes.imem_of_not_toImage {i : Instr} {s t : State} (h : Completes i s t)
    (away : ∀ a : Word, s.checkByte a = .next () → s.toImage a.toNat = false) : t.imem = s.imem := by
  cases h with
  | storesWord w v bytes first second =>
    rw [State.advance_imem, putWord_imem_of_not_toImage v (away _ first) (away _ second)]
  | storesByte a b bytes passed => rw [State.advance_imem, putByte_imem_of_not_toImage _ (away _ passed)]
  | writes | writesFree | jumps | links | advances => rfl

theorem step_imem_of_not_toImage {s t : State} (stepped : step s = .next t)
    (away : ∀ a : Word, s.checkByte a = .next () → s.toImage a.toNat = false) : t.imem = s.imem := by
  obtain ⟨_, i, _, -, -, done⟩ := step_eq_next.1 stepped
  exact (exec_completes done).imem_of_not_toImage away

/-- Settles O39: a store that passes its checks under `refuse` is outside IMEM_RANGE. -/
theorem codeIsImmutableWhereOrganisationIsOpen : Obligations.CodeIsImmutableWhereOrganisationIsOpen := by
  refine ⟨rfl, fun s refuse => ⟨fun a b inCode declared => ?_, fun t stepped => ?_⟩⟩
  · have refused : s.checkByte a = .refused (.refusedCodeAccess a) :=
      checkByte_eq_refused.2 ⟨declared, inCode, refuse, rfl⟩
    exact ⟨readByte_eq_refused.2 refused, writeByte_eq_refused.2 refused⟩
  · exact step_imem_of_not_toImage stepped fun _ => toImage_of_refuse refuse

/-! ## The fetch (R38, R44) -/

theorem fetchByte_of_sameImage {s t : State} (a : Word) (imem : t.imem = s.imem) (range : t.imemRange = s.imemRange) :
    t.fetchByte a = s.fetchByte a := by
  unfold State.fetchByte State.inCode
  rw [imem, range]

/-- Settles O40: under `unified` a byte of IMEM_RANGE is the image's, under `split` no data access reaches it. -/
theorem fetchSeesAStoreOnlyWhereMemoryIsUnified : Obligations.FetchSeesAStoreOnlyWhereMemoryIsUnified := by
  refine ⟨fun s t a b unified inCode written => ?_, fun s t a split stepped => ?_⟩
  · obtain ⟨-, rfl⟩ := writeByte_eq_next.1 written
    have toImage : s.toImage a.toNat = true := (toImage_of_unified _ unified).trans inCode
    exact fetchByte_eq_next.2 ⟨inCode, by rw [putByte_read_imem, if_pos ⟨rfl, toImage⟩]⟩
  · obtain ⟨-, range, -⟩ := sameLaunch_of_step stepped
    exact fetchByte_of_sameImage a (step_imem_of_not_toImage stepped fun _ _ => toImage_of_split _ split) range

theorem fetchByte_outside {s : State} {a : Word} (outside : s.inCode a.toNat = false) :
    s.fetchByte a = .fault (.fetchFault a) :=
  fetchByte_eq_fault.2 ⟨.inl outside, rfl⟩

/-- Settles O49: the fetch of two or three bytes from the fetch of each. -/
theorem fetchTakesTheBytesAtPc : Obligations.FetchTakesTheBytesAtPc := by
  intro s b0 b1 b2 has
  have fetched {a : Word} {b : Byte} (h : has a b) : s.fetchByte a = .next b := fetchByte_eq_next.2 h
  refine ⟨fun h0 h1 short => ?_, fun h0 h1 long h2 => ?_, fun out => ?_, fun h0 out => ?_, fun h0 h1 long out => ?_⟩
  · exact fetch_eq_next.2 ⟨b0, b1, fetched h0, fetched h1, by simp [short]⟩
  · refine fetch_eq_next.2 ⟨b0, b1, fetched h0, fetched h1, ?_⟩
    rw [if_pos long]
    exact ⟨b2, fetched h2, rfl⟩
  · exact fetch_eq_fault.2 (.inl (fetchByte_outside out))
  · exact fetch_eq_fault.2 (.inr ⟨b0, fetched h0, .inl (fetchByte_outside out)⟩)
  · exact fetch_eq_fault.2 (.inr ⟨b0, fetched h0, .inr ⟨b1, fetched h1, long, fetchByte_outside out⟩⟩)

end Sys2Proof.Machine
end

section
/-! PROOFS. The two halves of the round trip for each format: the word that the encoder builds is read back by the
format's reader, and a word that the reader takes is the one the encoder builds from what was read (30_encoding.md
R53 to R73, R81). -/

namespace Sys2Proof

/-! ## A word is its fields, joined -/

/-- insn[7:0] is insn[7:6] and insn[5:0]. -/
theorem opcode8_parts {n : Nat} {w : BitVec n} {mid : BitVec 2} {op : BitVec 6} (h : w.extractLsb' 0 8 = mid ++ op) :
    w.extractLsb' 0 6 = op ∧ w.extractLsb' 6 2 = mid :=
  ⟨(low6_of_low8 h).trans (low_of_append mid op), (mid2_of_low8 h).trans ((high_of_append mid op le_rfl).trans
    (extract_full mid))⟩

theorem opcode8_joined {n : Nat} (w : BitVec n) : w.extractLsb' 6 2 ++ w.extractLsb' 0 6 = w.extractLsb' 0 8 :=
  extract_append w 0 2 6

@[simp] theorem regBits_regField {n : Nat} (w : BitVec n) (lo : Nat) : regBits (regField w lo) = w.extractLsb' lo 4 :=
  rfl

theorem regField_of_extract {n lo : Nat} {w : BitVec n} {r : Reg} (h : w.extractLsb' lo 4 = regBits r) :
    regField w lo = r := by
  rw [regField, h, regField_regBits]

theorem regField_eq_zero_iff {n lo : Nat} {w : BitVec n} : regField w lo = 0 ↔ w.extractLsb' lo 4 = 0#4 :=
  ⟨congrArg regBits, regField_of_extract⟩

/-- The fields of formats R24 and SH24. -/
theorem fourBitFields_joined (w : BitVec 24) :
    (((w.extractLsb' 20 4 ++ w.extractLsb' 16 4) ++ w.extractLsb' 12 4) ++ w.extractLsb' 8 4) ++ w.extractLsb' 0 8
      = w := by
  simp only [BitVec.extractLsb'_append_extractLsb'_eq_extractLsb', extract_full]

/-- The fields of the formats with a `simm10`. -/
theorem simm10Fields_joined (w : BitVec 24) :
    (((w.extractLsb' 16 8 ++ w.extractLsb' 12 4) ++ w.extractLsb' 8 4) ++ w.extractLsb' 6 2) ++ w.extractLsb' 0 6
      = w := by
  simp only [BitVec.extractLsb'_append_extractLsb'_eq_extractLsb', extract_full]

/-- The fields of format J24. -/
theorem simm16Fields_joined (w : BitVec 24) :
    (w.extractLsb' 8 16 ++ w.extractLsb' 6 2) ++ w.extractLsb' 0 6 = w := by
  simp only [BitVec.extractLsb'_append_extractLsb'_eq_extractLsb', extract_full]

/-- The fields of formats R16, SH16 and JR16. -/
theorem twoRegisterFields_joined (w : BitVec 16) :
    (w.extractLsb' 12 4 ++ w.extractLsb' 8 4) ++ w.extractLsb' 0 8 = w := by
  simp only [BitVec.extractLsb'_append_extractLsb'_eq_extractLsb', extract_full]

/-- The fields of formats I16, LSP16 and SSP16. -/
theorem simm6Fields_joined (w : BitVec 16) :
    ((w.extractLsb' 12 4 ++ w.extractLsb' 8 4) ++ w.extractLsb' 6 2) ++ w.extractLsb' 0 6 = w := by
  simp only [BitVec.extractLsb'_append_extractLsb'_eq_extractLsb', extract_full]

/-- The fields of format JS16. -/
theorem simm11Fields_joined (w : BitVec 16) : w.extractLsb' 5 11 ++ w.extractLsb' 0 5 = w := by
  simp only [BitVec.extractLsb'_append_extractLsb'_eq_extractLsb', extract_full]

/-! ## From operands to the word and back -/

section Written

variable (op : BitVec 6)

theorem encodeSH24_word (rd rs1 : Reg) (uimm4 : BitVec 4) :
    ∃ w : BitVec 24, encodeSH24 (0#2 ++ op) rd rs1 uimm4 = bytes24 w ∧ w.extractLsb' 0 6 = op ∧
      ∀ mk, formatSH24 w mk = some (mk rd rs1 uimm4) := by
  obtain ⟨w, word, low8, at8, at12, at16, top⟩ := encodeR24_fields (0#2 ++ op) uimm4 (regBits rs1) (regBits rd)
  obtain ⟨low, mid⟩ := opcode8_parts low8
  refine ⟨w, word, low, fun mk => ?_⟩
  rw [formatSH24, if_pos ⟨top, mid⟩, regField_of_extract at8, regField_of_extract at12, at16]

/-- Format R24 is format SH24 with a register number in the place of the amount. -/
theorem encodeR24_word (rd rs1 rs2 : Reg) :
    ∃ w : BitVec 24, encodeR24 (0#2 ++ op) rd rs1 rs2 = bytes24 w ∧ w.extractLsb' 0 6 = op ∧
      ∀ mk, formatR24 w mk = some (mk rd rs1 rs2) := by
  obtain ⟨w, word, low, read⟩ := encodeSH24_word op rd rs1 (regBits rs2)
  exact ⟨w, word, low, fun mk => read fun a b c => mk a b c.toFin⟩

theorem encodeI24_word (at12 at8 : Reg) (imm : BitVec 10) :
    ∃ w : BitVec 24, encodeI24 op at12 at8 imm = bytes24 w ∧ w.extractLsb' 0 6 = op ∧
      regField w 12 = at12 ∧ regField w 8 = at8 ∧ simm10Field w = imm := by
  obtain ⟨w, word, low, has8, has12, simm10⟩ := encodeI24_fields op at12 at8 imm
  exact ⟨w, word, low, regField_of_extract has12, regField_of_extract has8, simm10⟩

theorem encodeR16_word (mid : BitVec 2) (rd rs : Reg) :
    ∃ w : BitVec 16, encodeR16 (mid ++ op) rd rs = bytes16 w ∧ w.extractLsb' 0 6 = op ∧ w.extractLsb' 6 2 = mid ∧
      regField w 8 = rd ∧ regField w 12 = rs := by
  obtain ⟨w, word, low8, at8, at12⟩ := encodeR16_fields (mid ++ op) (regBits rs) (regBits rd)
  obtain ⟨low, has⟩ := opcode8_parts low8
  exact ⟨w, word, low, has, regField_of_extract at8, regField_of_extract at12⟩

theorem encodeSH16_word (rd : Reg) (uimm4 : BitVec 4) :
    ∃ w : BitVec 16, encodeSH16 (0#2 ++ op) rd uimm4 = bytes16 w ∧ w.extractLsb' 0 6 = op ∧
      ∀ mk, formatSH16 w mk = some (mk rd uimm4) := by
  obtain ⟨w, word, low8, at8, at12⟩ := encodeR16_fields (0#2 ++ op) uimm4 (regBits rd)
  obtain ⟨low, mid⟩ := opcode8_parts low8
  refine ⟨w, word, low, fun mk => ?_⟩
  rw [formatSH16, if_pos mid, regField_of_extract at8, at12]

theorem encodeJR16_word (rs : Reg) :
    ∃ w : BitVec 16, encodeJR16 (0#2 ++ op) rs = bytes16 w ∧ w.extractLsb' 0 6 = op ∧
      ∀ mk, formatJR16 w mk = some (mk rs) := by
  obtain ⟨w, word, low8, at8, at12⟩ := encodeR16_fields (0#2 ++ op) 0#4 (regBits rs)
  obtain ⟨low, mid⟩ := opcode8_parts low8
  refine ⟨w, word, low, fun mk => ?_⟩
  rw [formatJR16, if_pos ⟨at12, mid⟩, regField_of_extract at8]

theorem encodeI16_word (rd : Reg) (imm : BitVec 6) :
    ∃ w : BitVec 16, encodeI16 op rd imm = bytes16 w ∧ w.extractLsb' 0 6 = op ∧
      ∀ mk, formatI16 w mk = some (mk rd imm) := by
  obtain ⟨w, word, low, mid, at8, at12⟩ := encodeI16_fields op (imm.extractLsb' 0 4) (regBits rd) (imm.extractLsb' 4 2)
  refine ⟨w, word, low, fun mk => ?_⟩
  rw [formatI16, regField_of_extract at8, simm6Field, mid, at12, simm6_parts]

theorem encodeSP16_word (r : Reg) {imm : BitVec 7} (even : imm[0] = false) :
    ∃ w : BitVec 16, encodeSP16 op r imm = bytes16 w ∧ w.extractLsb' 0 6 = op ∧
      ∀ mk, formatSP16 w mk = some (mk r imm) := by
  obtain ⟨w, word, low, mid, at8, at12⟩ := encodeI16_fields op (imm.extractLsb' 1 4) (regBits r) (imm.extractLsb' 5 2)
  refine ⟨w, word, low, fun mk => ?_⟩
  rw [formatSP16, regField_of_extract at8, uimm7Field, mid, at12, uimm7_parts imm even]

end Written

/-! ## From the word to its operands and back -/

section Read

variable {op : BitVec 6} {i : Instr}

theorem encodeSH24_of_read {w : BitVec 24} {mk : Reg → Reg → BitVec 4 → Instr} (low : w.extractLsb' 0 6 = op)
    (read : formatSH24 w mk = some i) :
    ∃ rd rs1 uimm4, i = mk rd rs1 uimm4 ∧ encodeSH24 (0#2 ++ op) rd rs1 uimm4 = bytes24 w := by
  simp only [formatSH24, Option.ite_none_right_eq_some, Option.some.injEq] at read
  obtain ⟨⟨top, mid⟩, rfl⟩ := read
  refine ⟨_, _, _, rfl, ?_⟩
  rw [encodeSH24, ← top, ← mid, ← low, regBits_regField, regBits_regField, opcode8_joined, fourBitFields_joined]

theorem encodeR24_of_read {w : BitVec 24} {mk : Reg → Reg → Reg → Instr} (low : w.extractLsb' 0 6 = op)
    (read : formatR24 w mk = some i) :
    ∃ rd rs1 rs2, i = mk rd rs1 rs2 ∧ encodeR24 (0#2 ++ op) rd rs1 rs2 = bytes24 w := by
  obtain ⟨rd, rs1, c, made, word⟩ := encodeSH24_of_read (mk := fun a b c => mk a b c.toFin) low read
  exact ⟨rd, rs1, c.toFin, made, word⟩

theorem encodeI24_fields_joined {w : BitVec 24} (low : w.extractLsb' 0 6 = op) :
    encodeI24 op (regField w 12) (regField w 8) (simm10Field w) = bytes24 w := by
  have high2 : (simm10Field w).extractLsb' 8 2 = w.extractLsb' 6 2 :=
    (high_of_append _ _ le_rfl).trans (extract_full _)
  have low8 : (simm10Field w).extractLsb' 0 8 = w.extractLsb' 16 8 := low_of_append _ _
  rw [encodeI24, high2, low8, ← low, regBits_regField, regBits_regField, simm10Fields_joined]

theorem encodeJ24_fields_joined {w : BitVec 24} (low : w.extractLsb' 0 6 = op) (mid : w.extractLsb' 6 2 = 0#2) :
    encodeJ24 op (simm16Field w) = bytes24 w := by
  rw [encodeJ24, ← low, ← mid, simm16Field, simm16Fields_joined]

theorem encodeR16_fields_joined {w : BitVec 16} {mid : BitVec 2} (low : w.extractLsb' 0 6 = op)
    (has : w.extractLsb' 6 2 = mid) : encodeR16 (mid ++ op) (regField w 8) (regField w 12) = bytes16 w := by
  rw [encodeR16, ← low, ← has, regBits_regField, regBits_regField, opcode8_joined, twoRegisterFields_joined]

theorem encodeR16_of_read {w : BitVec 16} {mk : Reg → Reg → Instr} (low : w.extractLsb' 0 6 = op)
    (read : formatR16 w mk = some i) : ∃ rd rs, i = mk rd rs ∧ encodeR16 (2#2 ++ op) rd rs = bytes16 w := by
  simp only [formatR16, Option.ite_none_right_eq_some, Option.some.injEq] at read
  obtain ⟨mid, rfl⟩ := read
  exact ⟨_, _, rfl, encodeR16_fields_joined low mid⟩

theorem encodeSH16_of_read {w : BitVec 16} {mk : Reg → BitVec 4 → Instr} (low : w.extractLsb' 0 6 = op)
    (read : formatSH16 w mk = some i) : ∃ rd uimm4, i = mk rd uimm4 ∧ encodeSH16 (0#2 ++ op) rd uimm4 = bytes16 w := by
  simp only [formatSH16, Option.ite_none_right_eq_some, Option.some.injEq] at read
  obtain ⟨mid, rfl⟩ := read
  exact ⟨_, _, rfl, encodeR16_fields_joined low mid⟩

theorem encodeJR16_of_read {w : BitVec 16} {mk : Reg → Instr} (low : w.extractLsb' 0 6 = op)
    (read : formatJR16 w mk = some i) : ∃ rs, i = mk rs ∧ encodeJR16 (0#2 ++ op) rs = bytes16 w := by
  simp only [formatJR16, Option.ite_none_right_eq_some, Option.some.injEq] at read
  obtain ⟨⟨at12, mid⟩, rfl⟩ := read
  refine ⟨_, rfl, ?_⟩
  rw [encodeJR16, ← at12, ← mid, ← low, regBits_regField, opcode8_joined, twoRegisterFields_joined]

theorem encodeI16_of_read {w : BitVec 16} {mk : Reg → BitVec 6 → Instr} (low : w.extractLsb' 0 6 = op)
    (read : formatI16 w mk = some i) : ∃ rd imm, i = mk rd imm ∧ encodeI16 op rd imm = bytes16 w := by
  cases read
  refine ⟨_, _, rfl, ?_⟩
  have high2 : (simm6Field w).extractLsb' 4 2 = w.extractLsb' 6 2 :=
    (high_of_append _ _ le_rfl).trans (extract_full _)
  have low4 : (simm6Field w).extractLsb' 0 4 = w.extractLsb' 12 4 := low_of_append _ _
  rw [encodeI16, high2, low4, ← low, regBits_regField, simm6Fields_joined]

theorem uimm7Field_even (w : BitVec 16) : (uimm7Field w)[0] = false :=
  bit0_of_low (w := uimm7Field w) (op := 0#1) (low_of_append _ _)

theorem encodeSP16_of_read {w : BitVec 16} {mk : Reg → BitVec 7 → Instr} (low : w.extractLsb' 0 6 = op)
    (read : formatSP16 w mk = some i) :
    ∃ r imm, i = mk r imm ∧ imm[0] = false ∧ encodeSP16 op r imm = bytes16 w := by
  cases read
  refine ⟨_, _, rfl, uimm7Field_even w, ?_⟩
  have high2 : (uimm7Field w).extractLsb' 5 2 = w.extractLsb' 6 2 :=
    (high_of_append _ _ (by decide)).trans ((high_of_append _ _ le_rfl).trans (extract_full _))
  have mid4 : (uimm7Field w).extractLsb' 1 4 = w.extractLsb' 12 4 :=
    (high_of_append _ _ le_rfl).trans (low_of_append _ _)
  rw [encodeSP16, high2, mid4, ← low, regBits_regField, simm6Fields_joined]

theorem encodeJS16_fields_joined {w : BitVec 16} {op : BitVec 5} (low : w.extractLsb' 0 5 = op) :
    encodeJS16 op (simm11Field w) = bytes16 w := by
  rw [encodeJS16, ← low, simm11Field, simm11Fields_joined]

end Read

end Sys2Proof
end

section
/-! PROOFS. The opcode map by format: which opcodes a format has, and for each of them that the encoder, the decoder
and well-formedness treat the instruction as its format says. The round trip follows format by format. -/

namespace Sys2Proof

/-! ## The rows of each format: insn[5:0] and the instruction (R74, R75) -/

inductive RowR24 : BitVec 6 → (Reg → Reg → Reg → Instr) → Prop
  | add : RowR24 0b000001#6 .add
  | sub : RowR24 0b001001#6 .sub
  | and : RowR24 0b010001#6 .and
  | xor : RowR24 0b011001#6 .xor
  | or : RowR24 0b100001#6 .or
  | lsl : RowR24 0b101001#6 .lsl
  | lsr : RowR24 0b110001#6 .lsr
  | asr : RowR24 0b111001#6 .asr

inductive RowSH24 : BitVec 6 → (Reg → Reg → BitVec 4 → Instr) → Prop
  | lsli : RowSH24 0b101011#6 .lsli
  | lsri : RowSH24 0b110011#6 .lsri
  | asri : RowSH24 0b111011#6 .asri

/-- Format I24 with L24 and `sw`'s S24; `li` and `sb` share an opcode and stand apart (R76). -/
inductive RowI24 : BitVec 6 → (Reg → Reg → BitVec 10 → Instr) → Prop
  | addi : RowI24 0b000011#6 .addi
  | andi : RowI24 0b010011#6 .andi
  | xori : RowI24 0b011011#6 .xori
  | ori : RowI24 0b100011#6 .ori
  | lbu : RowI24 0b000101#6 .lbu
  | sw : RowI24 0b001101#6 .sw
  | lw : RowI24 0b010101#6 .lw
  | lb : RowI24 0b100101#6 .lb

inductive RowB24 : BitVec 6 → (Reg → Reg → BitVec 10 → Instr) → Prop
  | beq : RowB24 0b001111#6 .beq
  | bltu : RowB24 0b010111#6 .bltu
  | bleu : RowB24 0b011111#6 .bleu
  | bne : RowB24 0b101111#6 .bne
  | blt : RowB24 0b110111#6 .blt
  | ble : RowB24 0b111111#6 .ble

/-- Format R16 but for `add2` and `mov`, whose opcode `nop` shares (R61, R67). -/
inductive RowR16 : BitVec 6 → (Reg → Reg → Instr) → Prop
  | sub2 : RowR16 0b001000#6 .sub2
  | and2 : RowR16 0b010000#6 .and2
  | xor2 : RowR16 0b011000#6 .xor2
  | or2 : RowR16 0b100000#6 .or2
  | lsl2 : RowR16 0b101000#6 .lsl2
  | lsr2 : RowR16 0b110000#6 .lsr2
  | asr2 : RowR16 0b111000#6 .asr2

inductive RowI16 : BitVec 6 → (Reg → BitVec 6 → Instr) → Prop
  | addi2 : RowI16 0b000010#6 .addi2
  | andi2 : RowI16 0b010010#6 .andi2
  | lui : RowI16 0b000100#6 .lui
  | lsi : RowI16 0b110100#6 .lsi

inductive RowSH16 : BitVec 6 → (Reg → BitVec 4 → Instr) → Prop
  | lsli2 : RowSH16 0b101010#6 .lsli2
  | lsri2 : RowSH16 0b110010#6 .lsri2
  | asri2 : RowSH16 0b111010#6 .asri2

inductive RowJR16 : BitVec 6 → (Reg → Instr) → Prop
  | jr : RowJR16 0b000110#6 .jr
  | jalr : RowJR16 0b010110#6 .jalr

/-- Format JS16 has a five-bit opcode: insn[5] is the low bit of `simm11` (R65). -/
inductive RowJS16 : BitVec 5 → (BitVec 11 → Instr) → Prop
  | js : RowJS16 0b01110#5 .js
  | jsal : RowJS16 0b11110#5 .jsal

inductive RowSP16 : BitVec 6 → (Reg → BitVec 7 → Instr) → Prop
  | lwsp : RowSP16 0b010100#6 .lwsp
  | swsp : RowSP16 0b011100#6 .swsp

/-! ## What the decoder, the encoder and well-formedness make of a row -/

section Rows

variable {op : BitVec 6} {p : Params}

theorem RowR24.decode24_eq {mk} (row : RowR24 op mk) {w : BitVec 24} (low : w.extractLsb' 0 6 = op) :
    decode24 p w = formatR24 w mk := by
  cases row <;> simp only [decode24, low]

theorem RowSH24.decode24_eq {mk} (row : RowSH24 op mk) {w : BitVec 24} (low : w.extractLsb' 0 6 = op) :
    decode24 p w = formatSH24 w mk := by
  cases row <;> simp only [decode24, low]

theorem RowI24.decode24_eq {mk} (row : RowI24 op mk) {w : BitVec 24} (low : w.extractLsb' 0 6 = op) :
    decode24 p w = formatI24 w mk := by
  cases row <;> simp only [decode24, low]

theorem RowB24.decode24_eq {mk} (row : RowB24 op mk) {w : BitVec 24} (low : w.extractLsb' 0 6 = op) :
    decode24 p w = formatB24 w mk := by
  cases row <;> simp only [decode24, low]

theorem decode24_of_liSb {w : BitVec 24} (low : w.extractLsb' 0 6 = 0b110101#6) : decode24 p w = formatLiSb p w := by
  simp only [decode24, low]

theorem decode24_of_j24 {w : BitVec 24} (low : w.extractLsb' 0 6 = 0b000111#6) : decode24 p w = formatJ24 p w := by
  simp only [decode24, low]

theorem decode16_of_zero16 {w : BitVec 16} (low : w.extractLsb' 0 6 = 0b000000#6) : decode16 w = formatZero16 w := by
  simp only [decode16, low]

theorem RowR16.decode16_eq {mk} (row : RowR16 op mk) {w : BitVec 16} (low : w.extractLsb' 0 6 = op) :
    decode16 w = formatR16 w mk := by
  cases row <;> simp only [decode16, low]

theorem RowI16.decode16_eq {mk} (row : RowI16 op mk) {w : BitVec 16} (low : w.extractLsb' 0 6 = op) :
    decode16 w = formatI16 w mk := by
  cases row <;> simp only [decode16, low]

theorem RowSH16.decode16_eq {mk} (row : RowSH16 op mk) {w : BitVec 16} (low : w.extractLsb' 0 6 = op) :
    decode16 w = formatSH16 w mk := by
  cases row <;> simp only [decode16, low]

theorem RowJR16.decode16_eq {mk} (row : RowJR16 op mk) {w : BitVec 16} (low : w.extractLsb' 0 6 = op) :
    decode16 w = formatJR16 w mk := by
  cases row <;> simp only [decode16, low]

theorem RowSP16.decode16_eq {mk} (row : RowSP16 op mk) {w : BitVec 16} (low : w.extractLsb' 0 6 = op) :
    decode16 w = formatSP16 w mk := by
  cases row <;> simp only [decode16, low]

/-- Five low bits leave two six-bit opcodes: with insn[5] = 0 and with insn[5] = 1. -/
theorem low6_of_low5 {n : Nat} {w : BitVec n} {op : BitVec 5} (low : w.extractLsb' 0 5 = op) :
    w.extractLsb' 0 6 = 0#1 ++ op ∨ w.extractLsb' 0 6 = 1#1 ++ op := by
  have joined : w.extractLsb' 5 1 ++ w.extractLsb' 0 5 = w.extractLsb' 0 6 := extract_append w 0 1 5
  rw [← joined, low]
  rcases BitVec.eq_zero_or_eq_one (w.extractLsb' 5 1) with bit5 | bit5 <;> simp [bit5]

theorem RowJS16.decode16_eq {op : BitVec 5} {mk} (row : RowJS16 op mk) {w : BitVec 16} (low : w.extractLsb' 0 5 = op) :
    decode16 w = some (mk (simm11Field w)) := by
  cases row <;> rcases low6_of_low5 low with low6 | low6 <;> simp only [decode16, low6] <;> rfl

theorem RowR24.encode_eq {mk} (row : RowR24 op mk) (rd rs1 rs2 : Reg) :
    encode (mk rd rs1 rs2) = encodeR24 (0#2 ++ op) rd rs1 rs2 := by
  cases row <;> rfl

theorem RowSH24.encode_eq {mk} (row : RowSH24 op mk) (rd rs1 : Reg) (uimm4 : BitVec 4) :
    encode (mk rd rs1 uimm4) = encodeSH24 (0#2 ++ op) rd rs1 uimm4 := by
  cases row <;> rfl

theorem RowI24.encode_eq {mk} (row : RowI24 op mk) (at8 at12 : Reg) (imm : BitVec 10) :
    encode (mk at8 at12 imm) = encodeI24 op at12 at8 imm := by
  cases row <;> rfl

theorem RowB24.encode_eq {mk} (row : RowB24 op mk) (at12 at8 : Reg) (imm : BitVec 10) :
    encode (mk at12 at8 imm) = encodeI24 op at12 at8 imm := by
  cases row <;> rfl

theorem RowR16.encode_eq {mk} (row : RowR16 op mk) (rd rs : Reg) :
    encode (mk rd rs) = encodeR16 (2#2 ++ op) rd rs := by
  cases row <;> rfl

theorem encode_add2 (rd rs : Reg) : encode (.add2 rd rs) = encodeR16 (2#2 ++ 0b000000#6) rd rs := rfl

theorem encode_mov (rd rs : Reg) : encode (.mov rd rs) = encodeR16 (3#2 ++ 0b000000#6) rd rs := rfl

theorem RowI16.encode_eq {mk} (row : RowI16 op mk) (rd : Reg) (imm : BitVec 6) :
    encode (mk rd imm) = encodeI16 op rd imm := by
  cases row <;> rfl

theorem RowSH16.encode_eq {mk} (row : RowSH16 op mk) (rd : Reg) (uimm4 : BitVec 4) :
    encode (mk rd uimm4) = encodeSH16 (0#2 ++ op) rd uimm4 := by
  cases row <;> rfl

theorem RowJR16.encode_eq {mk} (row : RowJR16 op mk) (rs : Reg) : encode (mk rs) = encodeJR16 (0#2 ++ op) rs := by
  cases row <;> rfl

theorem RowJS16.encode_eq {op : BitVec 5} {mk} (row : RowJS16 op mk) (imm : BitVec 11) :
    encode (mk imm) = encodeJS16 op imm := by
  cases row <;> rfl

theorem RowSP16.encode_eq {mk} (row : RowSP16 op mk) (r : Reg) (imm : BitVec 7) :
    encode (mk r imm) = encodeSP16 op r imm := by
  cases row <;> rfl

theorem RowR24.wellFormed {mk} (row : RowR24 op mk) (rd rs1 rs2 : Reg) : (mk rd rs1 rs2).wellFormed p = true := by
  cases row <;> rfl

theorem RowSH24.wellFormed {mk} (row : RowSH24 op mk) (rd rs1 : Reg) (uimm4 : BitVec 4) :
    (mk rd rs1 uimm4).wellFormed p = true := by
  cases row <;> rfl

theorem RowI24.wellFormed {mk} (row : RowI24 op mk) (at8 at12 : Reg) (imm : BitVec 10) :
    (mk at8 at12 imm).wellFormed p = true := by
  cases row <;> rfl

theorem RowB24.wellFormed {mk} (row : RowB24 op mk) (at12 at8 : Reg) (imm : BitVec 10) :
    (mk at12 at8 imm).wellFormed p = true := by
  cases row <;> rfl

theorem RowR16.wellFormed {mk} (row : RowR16 op mk) (rd rs : Reg) : (mk rd rs).wellFormed p = true := by
  cases row <;> rfl

theorem RowI16.wellFormed {mk} (row : RowI16 op mk) (rd : Reg) (imm : BitVec 6) : (mk rd imm).wellFormed p = true := by
  cases row <;> rfl

theorem RowSH16.wellFormed {mk} (row : RowSH16 op mk) (rd : Reg) (uimm4 : BitVec 4) :
    (mk rd uimm4).wellFormed p = true := by
  cases row <;> rfl

theorem RowJR16.wellFormed {mk} (row : RowJR16 op mk) (rs : Reg) : (mk rs).wellFormed p = true := by
  cases row <;> rfl

theorem RowJS16.wellFormed {op : BitVec 5} {mk} (row : RowJS16 op mk) (imm : BitVec 11) :
    (mk imm).wellFormed p = true := by
  cases row <;> rfl

theorem RowSP16.wellFormed_iff {mk} (row : RowSP16 op mk) (r : Reg) (imm : BitVec 7) :
    (mk r imm).wellFormed p = true ↔ imm[0] = false := by
  cases row <;> simp [Instr.wellFormed, Instr.operandsOk, Instr.admitted]

theorem wellFormed_sb_iff {data base : Reg} {imm : BitVec 10} :
    (Instr.sb data base imm).wellFormed p = true ↔ base ≠ 0 ∧ p.sbAdmitted = true := by
  simp [Instr.wellFormed, Instr.operandsOk, Instr.admitted]

theorem wellFormed_j_iff {imm : BitVec 16} : (Instr.j imm).wellFormed p = true ↔ p.j24 = .j := by
  simp [Instr.wellFormed, Instr.operandsOk, Instr.admitted]

theorem wellFormed_jal_iff {imm : BitVec 16} : (Instr.jal imm).wellFormed p = true ↔ p.j24 = .jal := by
  simp [Instr.wellFormed, Instr.operandsOk, Instr.admitted]

end Rows

/-! ## Which format reads a word -/

/-- The opcodes with bit 0 = 1 that no row has: R80's cases 3, 5 and 8. -/
def unlisted24 : List (BitVec 6) := [0b001011#6, 0b011101#6, 0b101101#6, 0b111101#6, 0b100111#6]

/-- The opcodes with bit 0 = 0 that no row has: R80's cases 12 and 14, and those of case 15 with insn[5] = 1. -/
def unlisted16 : List (BitVec 6) :=
  [0b001010#6, 0b011010#6, 0b100010#6, 0b001100#6, 0b100100#6, 0b101100#6, 0b111100#6, 0b100110#6, 0b110110#6]

/-- The opcodes of 24-bit rows, format by format (R74, R76, R77). -/
def listed24 : List (BitVec 6) :=
  [0b000001#6, 0b001001#6, 0b010001#6, 0b011001#6, 0b100001#6, 0b101001#6, 0b110001#6, 0b111001#6,
    0b000011#6, 0b010011#6, 0b011011#6, 0b100011#6, 0b101011#6, 0b110011#6, 0b111011#6,
    0b000101#6, 0b001101#6, 0b010101#6, 0b100101#6, 0b110101#6, 0b000111#6,
    0b001111#6, 0b010111#6, 0b011111#6, 0b101111#6, 0b110111#6, 0b111111#6]

/-- The opcodes of 16-bit rows, format by format (R75); JS16 has two for each of its rows. -/
def listed16 : List (BitVec 6) :=
  [0b000000#6, 0b001000#6, 0b010000#6, 0b011000#6, 0b100000#6, 0b101000#6, 0b110000#6, 0b111000#6,
    0b000010#6, 0b010010#6, 0b101010#6, 0b110010#6, 0b111010#6, 0b000100#6, 0b110100#6,
    0b010100#6, 0b011100#6, 0b000110#6, 0b010110#6, 0b001110#6, 0b101110#6, 0b011110#6, 0b111110#6]

theorem mem_unlisted24 : ∀ op : BitVec 6, op ∉ listed24 → op[0] = true → op ∈ unlisted24 := by decide

theorem mem_unlisted16 : ∀ op : BitVec 6, op ∉ listed16 → op[0] = false → op ∈ unlisted16 := by decide

/-- The ways in which a 24-bit word is read, by its opcode; `decode24_reads` ties it to `decode24`. -/
inductive Reads24 (p : Params) (w : BitVec 24) : Option Instr → Prop
  | r24 {op mk} (row : RowR24 op mk) (low : w.extractLsb' 0 6 = op) : Reads24 p w (formatR24 w mk)
  | sh24 {op mk} (row : RowSH24 op mk) (low : w.extractLsb' 0 6 = op) : Reads24 p w (formatSH24 w mk)
  | i24 {op mk} (row : RowI24 op mk) (low : w.extractLsb' 0 6 = op) : Reads24 p w (formatI24 w mk)
  | b24 {op mk} (row : RowB24 op mk) (low : w.extractLsb' 0 6 = op) : Reads24 p w (formatB24 w mk)
  | liSb (low : w.extractLsb' 0 6 = 0b110101#6) : Reads24 p w (formatLiSb p w)
  | j24 (low : w.extractLsb' 0 6 = 0b000111#6) : Reads24 p w (formatJ24 p w)
  | unlisted (gap : w.extractLsb' 0 6 ∉ listed24) : Reads24 p w none

/-- The ways in which a 16-bit word is read, by its opcode; `decode16_reads` ties it to `decode16`. -/
inductive Reads16 (w : BitVec 16) : Option Instr → Prop
  | zero16 (low : w.extractLsb' 0 6 = 0b000000#6) : Reads16 w (formatZero16 w)
  | r16 {op mk} (row : RowR16 op mk) (low : w.extractLsb' 0 6 = op) : Reads16 w (formatR16 w mk)
  | i16 {op mk} (row : RowI16 op mk) (low : w.extractLsb' 0 6 = op) : Reads16 w (formatI16 w mk)
  | sh16 {op mk} (row : RowSH16 op mk) (low : w.extractLsb' 0 6 = op) : Reads16 w (formatSH16 w mk)
  | sp16 {op mk} (row : RowSP16 op mk) (low : w.extractLsb' 0 6 = op) : Reads16 w (formatSP16 w mk)
  | jr16 {op mk} (row : RowJR16 op mk) (low : w.extractLsb' 0 6 = op) : Reads16 w (formatJR16 w mk)
  | js16 {op : BitVec 5} {mk} (row : RowJS16 op mk) (low : w.extractLsb' 0 5 = op) :
      Reads16 w (some (mk (simm11Field w)))
  | unlisted (gap : w.extractLsb' 0 6 ∉ listed16) : Reads16 w none

theorem decode24_reads (p : Params) (w : BitVec 24) : Reads24 p w (decode24 p w) := by
  unfold decode24
  split
  case h_1 | h_2 | h_3 | h_4 | h_5 | h_6 | h_7 | h_8 => exact .r24 (by constructor) ‹_›
  case h_9 | h_10 | h_11 | h_12 | h_16 | h_17 | h_18 | h_19 => exact .i24 (by constructor) ‹_›
  case h_13 | h_14 | h_15 => exact .sh24 (by constructor) ‹_›
  case h_20 => exact .liSb ‹_›
  case h_21 => exact .j24 ‹_›
  case h_22 | h_23 | h_24 | h_25 | h_26 | h_27 => exact .b24 (by constructor) ‹_›
  case h_28 =>
    refine .unlisted ?_
    simp only [listed24, List.mem_cons, List.not_mem_nil, or_false, not_or]
    simp_all only [imp_false, not_false_eq_true, and_self]

/-- A field inside insn[5:0] is the opcode's. -/
theorem extract_of_low6 {n : Nat} {w : BitVec n} {op : BitVec 6} (low : w.extractLsb' 0 6 = op) (k l : Nat)
    (inside : k + l ≤ 6 := by decide) : w.extractLsb' k l = op.extractLsb' k l := by
  rw [← low, extract_extract w inside, Nat.zero_add]

theorem decode16_reads (w : BitVec 16) : Reads16 w (decode16 w) := by
  unfold decode16
  split
  case h_1 => exact .zero16 ‹_›
  case h_2 | h_3 | h_4 | h_5 | h_6 | h_7 | h_8 => exact .r16 (by constructor) ‹_›
  case h_9 | h_10 | h_14 | h_15 => exact .i16 (by constructor) ‹_›
  case h_11 | h_12 | h_13 => exact .sh16 (by constructor) ‹_›
  case h_16 | h_17 => exact .sp16 (by constructor) ‹_›
  case h_18 | h_19 => exact .jr16 (by constructor) ‹_›
  case h_20 | h_21 => exact .js16 .js (extract_of_low6 ‹_› 0 5)
  case h_22 | h_23 => exact .js16 .jsal (extract_of_low6 ‹_› 0 5)
  case h_24 =>
    refine .unlisted ?_
    simp only [listed16, List.mem_cons, List.not_mem_nil, or_false, not_or]
    simp_all only [imp_false, not_false_eq_true, and_self]

end Sys2Proof
end

section
/-! PROOFS. The round trips between instructions and bytes, assembled from the formats and their rows, and what
follows from them about lengths. -/

namespace Sys2Proof

/-! ## Decoding what was encoded -/

section DecodeEncode

variable {p : Params} {i : Instr} {rest : List Byte}

theorem decode_of_word24 {w : BitVec 24} {op : BitVec 6} (word : encode i = bytes24 w) (low : w.extractLsb' 0 6 = op)
    (odd : op.getLsbD 0 = true) (read : decode24 p w = some i) : decode p (encode i ++ rest) = .ok (i, rest) := by
  rw [word, decode_bytes24 p w rest ((bit0_of_low low).trans odd), read]

theorem decode_of_word16 {w : BitVec 16} {k : Nat} {op : BitVec (k + 1)} (word : encode i = bytes16 w)
    (low : w.extractLsb' 0 (k + 1) = op) (even : op.getLsbD 0 = false) (read : decode16 w = some i) :
    decode p (encode i ++ rest) = .ok (i, rest) := by
  rw [word, decode_bytes16 p w rest ((bit0_of_low low).trans even), read]

variable {op : BitVec 6}

theorem decode_encode_R24 {mk} {rd rs1 rs2 : Reg} (row : RowR24 op mk) :
    decode p (encode (mk rd rs1 rs2) ++ rest) = .ok (mk rd rs1 rs2, rest) := by
  obtain ⟨w, word, low, read⟩ := encodeR24_word op rd rs1 rs2
  exact decode_of_word24 ((row.encode_eq ..).trans word) low (by cases row <;> rfl)
    ((row.decode24_eq low).trans (read mk))

theorem decode_encode_SH24 {mk} {rd rs1 : Reg} {uimm4 : BitVec 4} (row : RowSH24 op mk) :
    decode p (encode (mk rd rs1 uimm4) ++ rest) = .ok (mk rd rs1 uimm4, rest) := by
  obtain ⟨w, word, low, read⟩ := encodeSH24_word op rd rs1 uimm4
  exact decode_of_word24 ((row.encode_eq ..).trans word) low (by cases row <;> rfl)
    ((row.decode24_eq low).trans (read mk))

theorem decode_encode_I24 {mk} {at8 at12 : Reg} {imm : BitVec 10} (row : RowI24 op mk) :
    decode p (encode (mk at8 at12 imm) ++ rest) = .ok (mk at8 at12 imm, rest) := by
  obtain ⟨w, word, low, rfl, rfl, rfl⟩ := encodeI24_word op at12 at8 imm
  exact decode_of_word24 ((row.encode_eq ..).trans word) low (by cases row <;> rfl) (row.decode24_eq low)

theorem decode_encode_B24 {mk} {at12 at8 : Reg} {imm : BitVec 10} (row : RowB24 op mk) :
    decode p (encode (mk at12 at8 imm) ++ rest) = .ok (mk at12 at8 imm, rest) := by
  obtain ⟨w, word, low, rfl, rfl, rfl⟩ := encodeI24_word op at12 at8 imm
  exact decode_of_word24 ((row.encode_eq ..).trans word) low (by cases row <;> rfl) (row.decode24_eq low)

/-- `li` is encoded with insn[15:12] = 0000 (R55). -/
theorem decode_encode_li {rd : Reg} {imm : BitVec 10} :
    decode p (encode (.li rd imm) ++ rest) = .ok (.li rd imm, rest) := by
  obtain ⟨w, word, low, at12, rfl, rfl⟩ := encodeI24_word 0b110101#6 0 rd imm
  refine decode_of_word24 word low rfl ((decode24_of_liSb low).trans ?_)
  rw [formatLiSb, if_pos (regField_eq_zero_iff.1 at12)]

theorem decode_encode_sb {data base : Reg} {imm : BitVec 10} (nonzero : base ≠ 0) (admitted : p.sbAdmitted = true) :
    decode p (encode (.sb data base imm) ++ rest) = .ok (.sb data base imm, rest) := by
  obtain ⟨w, word, low, rfl, rfl, rfl⟩ := encodeI24_word 0b110101#6 base data imm
  refine decode_of_word24 word low rfl ((decode24_of_liSb low).trans ?_)
  rw [formatLiSb, if_neg (mt regField_eq_zero_iff.2 nonzero), if_pos admitted]

theorem decode_encode_J24 {imm : BitVec 16} (word : encode i = encodeJ24 0b000111#6 imm)
    (read : ∀ w, w.extractLsb' 6 2 = 0#2 → simm16Field w = imm → formatJ24 p w = some i) :
    decode p (encode i ++ rest) = .ok (i, rest) := by
  obtain ⟨w, bytes, low, mid, field⟩ := encodeJ24_fields 0b000111#6 imm
  exact decode_of_word24 (word.trans bytes) low rfl ((decode24_of_j24 low).trans (read w mid field))

theorem decode_encode_R16 {mk} {rd rs : Reg} (row : RowR16 op mk) :
    decode p (encode (mk rd rs) ++ rest) = .ok (mk rd rs, rest) := by
  obtain ⟨w, word, low, mid, rfl, rfl⟩ := encodeR16_word op 2#2 rd rs
  exact decode_of_word16 ((row.encode_eq ..).trans word) low (by cases row <;> rfl)
    ((row.decode16_eq low).trans (if_pos mid))

/-- `add2` and `mov`: insn[5:0] = 000000 and insn[7:6] not 00 (R61). -/
theorem decode_encode_zero16 {mid : BitVec 2} {rd rs : Reg} (word : encode i = encodeR16 (mid ++ 0b000000#6) rd rs)
    (read : ∀ w, w.extractLsb' 6 2 = mid → regField w 8 = rd → regField w 12 = rs → formatZero16 w = some i) :
    decode p (encode i ++ rest) = .ok (i, rest) := by
  obtain ⟨w, bytes, low, has, at8, at12⟩ := encodeR16_word 0b000000#6 mid rd rs
  exact decode_of_word16 (word.trans bytes) low rfl ((decode16_of_zero16 low).trans (read w has at8 at12))

theorem decode_encode_I16 {mk} {rd : Reg} {imm : BitVec 6} (row : RowI16 op mk) :
    decode p (encode (mk rd imm) ++ rest) = .ok (mk rd imm, rest) := by
  obtain ⟨w, word, low, read⟩ := encodeI16_word op rd imm
  exact decode_of_word16 ((row.encode_eq ..).trans word) low (by cases row <;> rfl)
    ((row.decode16_eq low).trans (read mk))

theorem decode_encode_SH16 {mk} {rd : Reg} {uimm4 : BitVec 4} (row : RowSH16 op mk) :
    decode p (encode (mk rd uimm4) ++ rest) = .ok (mk rd uimm4, rest) := by
  obtain ⟨w, word, low, read⟩ := encodeSH16_word op rd uimm4
  exact decode_of_word16 ((row.encode_eq ..).trans word) low (by cases row <;> rfl)
    ((row.decode16_eq low).trans (read mk))

theorem decode_encode_JR16 {mk} {rs : Reg} (row : RowJR16 op mk) :
    decode p (encode (mk rs) ++ rest) = .ok (mk rs, rest) := by
  obtain ⟨w, word, low, read⟩ := encodeJR16_word op rs
  exact decode_of_word16 ((row.encode_eq ..).trans word) low (by cases row <;> rfl)
    ((row.decode16_eq low).trans (read mk))

theorem decode_encode_JS16 {op : BitVec 5} {mk} {imm : BitVec 11} (row : RowJS16 op mk) :
    decode p (encode (mk imm) ++ rest) = .ok (mk imm, rest) := by
  obtain ⟨w, word, low, rfl⟩ := encodeJS16_fields op imm
  exact decode_of_word16 ((row.encode_eq ..).trans word) low (by cases row <;> rfl) (row.decode16_eq low)

theorem decode_encode_SP16 {mk} {r : Reg} {imm : BitVec 7} (row : RowSP16 op mk)
    (wf : (mk r imm).wellFormed p = true) : decode p (encode (mk r imm) ++ rest) = .ok (mk r imm, rest) := by
  obtain ⟨w, word, low, read⟩ := encodeSP16_word op r ((row.wellFormed_iff r imm).1 wf)
  exact decode_of_word16 ((row.encode_eq ..).trans word) low (by cases row <;> rfl)
    ((row.decode16_eq low).trans (read mk))

theorem decode_encode_nop : decode p (encode .nop ++ rest) = .ok (.nop, rest) :=
  decode_of_word16 (k := 5) (w := 0#16) rfl rfl rfl rfl

end DecodeEncode

/-- Settles O1: each format's encoder builds a word that the decoder's arm for its opcode reads back. -/
theorem decodeOfEncodeIsTheInstruction : Obligations.DecodeOfEncodeIsTheInstruction := by
  intro p i rest wf
  cases i with
  | add | sub | and | xor | or | lsl | lsr | asr => exact decode_encode_R24 (by constructor)
  | lsli | lsri | asri => exact decode_encode_SH24 (by constructor)
  | addi | andi | xori | ori | lw | lb | lbu | sw => exact decode_encode_I24 (by constructor)
  | beq | bne | blt | bltu | ble | bleu => exact decode_encode_B24 (by constructor)
  | li => exact decode_encode_li
  | sb =>
    obtain ⟨nonzero, admitted⟩ := wellFormed_sb_iff.1 wf
    exact decode_encode_sb nonzero admitted
  | j =>
    refine decode_encode_J24 rfl fun w mid field => ?_
    simp only [formatJ24, if_pos mid, wellFormed_j_iff.1 wf, field]
  | jal =>
    refine decode_encode_J24 rfl fun w mid field => ?_
    simp only [formatJ24, if_pos mid, wellFormed_jal_iff.1 wf, field]
  | mov =>
    refine decode_encode_zero16 (encode_mov ..) fun w mid at8 at12 => ?_
    have nonzero : w ≠ 0#16 := by rintro rfl; cases mid
    simp [formatZero16, nonzero, mid, at8, at12]
  | add2 =>
    refine decode_encode_zero16 (encode_add2 ..) fun w mid at8 at12 => ?_
    have nonzero : w ≠ 0#16 := by rintro rfl; cases mid
    simp [formatZero16, nonzero, mid, at8, at12]
  | sub2 | and2 | xor2 | or2 | lsl2 | lsr2 | asr2 => exact decode_encode_R16 (by constructor)
  | addi2 | andi2 | lsi | lui => exact decode_encode_I16 (by constructor)
  | lsli2 | lsri2 | asri2 => exact decode_encode_SH16 (by constructor)
  | jalr | jr => exact decode_encode_JR16 (by constructor)
  | js | jsal => exact decode_encode_JS16 (by constructor)
  | lwsp | swsp => exact decode_encode_SP16 (by constructor) wf
  | nop => exact decode_encode_nop

/-! ## Encoding what was decoded -/

/-- What a 24-bit word is read as is well formed, and its encoding is the word. -/
theorem encode_of_decode24 {p : Params} {w : BitVec 24} {i : Instr} (read : decode24 p w = some i) :
    i.wellFormed p = true ∧ encode i = bytes24 w := by
  have reads := decode24_reads p w
  rw [read] at reads
  generalize made : some i = r at reads
  cases reads with
  | r24 row low =>
    obtain ⟨rd, rs1, rs2, rfl, word⟩ := encodeR24_of_read low made.symm
    exact ⟨row.wellFormed .., (row.encode_eq ..).trans word⟩
  | sh24 row low =>
    obtain ⟨rd, rs1, uimm4, rfl, word⟩ := encodeSH24_of_read low made.symm
    exact ⟨row.wellFormed .., (row.encode_eq ..).trans word⟩
  | i24 row low =>
    cases made
    exact ⟨row.wellFormed .., (row.encode_eq ..).trans (encodeI24_fields_joined low)⟩
  | b24 row low =>
    cases made
    exact ⟨row.wellFormed .., (row.encode_eq ..).trans (encodeI24_fields_joined low)⟩
  | liSb low =>
    have word := encodeI24_fields_joined low
    unfold formatLiSb at made
    split at made
    · rename_i zero
      cases made
      rw [regField_eq_zero_iff.2 zero] at word
      exact ⟨rfl, word⟩
    · rename_i nonzero
      simp only [eq_comm (a := some i), Option.ite_none_right_eq_some, Option.some.injEq] at made
      obtain ⟨admitted, rfl⟩ := made
      exact ⟨wellFormed_sb_iff.2 ⟨mt regField_eq_zero_iff.1 nonzero, admitted⟩, word⟩
  | j24 low =>
    simp only [eq_comm (a := some i), formatJ24, Option.ite_none_right_eq_some] at made
    obtain ⟨mid, made⟩ := made
    have word := encodeJ24_fields_joined low mid
    split at made
    · cases made
    · rename_i isJ
      cases made
      exact ⟨wellFormed_j_iff.2 isJ, word⟩
    · rename_i isJal
      cases made
      exact ⟨wellFormed_jal_iff.2 isJal, word⟩
  | unlisted => cases made

/-- What a 16-bit word is read as is well formed, and its encoding is the word. -/
theorem encode_of_decode16 {p : Params} {w : BitVec 16} {i : Instr} (read : decode16 w = some i) :
    i.wellFormed p = true ∧ encode i = bytes16 w := by
  have reads := decode16_reads w
  rw [read] at reads
  generalize made : some i = r at reads
  cases reads with
  | zero16 low =>
    unfold formatZero16 at made
    split at made
    · rename_i zero
      cases made
      exact ⟨rfl, congrArg bytes16 zero.symm⟩
    split at made
    · cases made
      exact ⟨rfl, (encode_add2 ..).trans (encodeR16_fields_joined low ‹_›)⟩
    split at made
    · cases made
      exact ⟨rfl, (encode_mov ..).trans (encodeR16_fields_joined low ‹_›)⟩
    · cases made
  | r16 row low =>
    obtain ⟨rd, rs, rfl, word⟩ := encodeR16_of_read low made.symm
    exact ⟨row.wellFormed .., (row.encode_eq ..).trans word⟩
  | i16 row low =>
    obtain ⟨rd, imm, rfl, word⟩ := encodeI16_of_read low made.symm
    exact ⟨row.wellFormed .., (row.encode_eq ..).trans word⟩
  | sh16 row low =>
    obtain ⟨rd, uimm4, rfl, word⟩ := encodeSH16_of_read low made.symm
    exact ⟨row.wellFormed .., (row.encode_eq ..).trans word⟩
  | sp16 row low =>
    obtain ⟨r, imm, rfl, even, word⟩ := encodeSP16_of_read low made.symm
    exact ⟨(row.wellFormed_iff r imm).2 even, (row.encode_eq ..).trans word⟩
  | jr16 row low =>
    obtain ⟨rs, rfl, word⟩ := encodeJR16_of_read low made.symm
    exact ⟨row.wellFormed .., (row.encode_eq ..).trans word⟩
  | js16 row low =>
    cases made
    exact ⟨row.wellFormed .., (row.encode_eq ..).trans (encodeJS16_fields_joined low)⟩
  | unlisted => cases made

/-- The decoder answers from three bytes with bit 0 of the first 1, or from two with it 0 (R51). -/
theorem decode_eq_ok {p : Params} {bytes rest : List Byte} {i : Instr} (h : decode p bytes = .ok (i, rest)) :
    (∃ b0 b1 b2, bytes = b0 :: b1 :: b2 :: rest ∧ decode24 p (word24 b0 b1 b2) = some i) ∨
      ∃ b0 b1, bytes = b0 :: b1 :: rest ∧ decode16 (word16 b0 b1) = some i := by
  unfold decode at h
  split at h
  · split at h
    · split at h
      · cases h
      · split at h
        · cases h
          exact .inl ⟨_, _, _, rfl, ‹_›⟩
        · cases h
    · split at h
      · cases h
        exact .inr ⟨_, _, rfl, ‹_›⟩
      · cases h
  · cases h

/-- Settles O2: the word that was read is its fields, joined as the encoder joins them. -/
theorem encodeOfDecodeIsTheBytes : Obligations.EncodeOfDecodeIsTheBytes := by
  intro p i bytes rest decoded
  obtain ⟨b0, b1, b2, rfl, read⟩ | ⟨b0, b1, rfl, read⟩ := decode_eq_ok decoded
  · obtain ⟨wf, word⟩ := encode_of_decode24 read
    exact ⟨wf, by rw [word, bytes24_word24]; rfl⟩
  · obtain ⟨wf, word⟩ := encode_of_decode16 (p := p) read
    exact ⟨wf, by rw [word, bytes16_word16]; rfl⟩

/-! ## The length rule -/

/-- Every encoding is a 24-bit word with bit 0 = 1 or a 16-bit word with bit 0 = 0: its opcode's (R51, R74, R75). -/
theorem encode_word (i : Instr) :
    (∃ w : BitVec 24, encode i = bytes24 w ∧ w.getLsbD 0 = true) ∨
      ∃ w : BitVec 16, encode i = bytes16 w ∧ w.getLsbD 0 = false := by
  cases i with
  | add | sub | and | xor | or | lsl | lsr | asr | addi | andi | xori | ori | li | lsli | lsri | asri
  | beq | bne | blt | bltu | ble | bleu | j | jal | lw | lb | lbu | sw | sb =>
    exact .inl ⟨_, rfl, bit0_of_low (low_of_append _ _)⟩
  | mov | add2 | sub2 | and2 | xor2 | or2 | lsl2 | lsr2 | asr2 | addi2 | andi2 | lsi | lui | lsli2 | lsri2 | asri2
  | jalr | jr | js | jsal | lwsp | swsp => exact .inr ⟨_, rfl, bit0_of_low (low_of_append _ _)⟩
  | nop => exact .inr ⟨0#16, rfl, rfl⟩

theorem encode_firstByte (i : Instr) : ∃ b bs, encode i = b :: bs ∧ (encode i).length = if b[0] then 3 else 2 := by
  obtain ⟨w, word, bit⟩ | ⟨w, word, bit⟩ := encode_word i
  · exact ⟨_, _, word, by rw [byte0_bit0, bit, word]; rfl⟩
  · exact ⟨_, _, word, by rw [byte0_bit0, bit, word]; rfl⟩

/-- Settles O5: what was decoded is encoded as the bytes read, so the second half follows from the first. -/
theorem bitZeroTellsTheLength : Obligations.BitZeroTellsTheLength := by
  refine ⟨encode_firstByte, fun p b bs rest i decoded => ?_⟩
  obtain ⟨-, whole⟩ := encodeOfDecodeIsTheBytes p i _ rest decoded
  obtain ⟨b', bs', word, length⟩ := encode_firstByte i
  have first : b' = b := by
    rw [word] at whole
    exact (List.cons.inj whole).1
  rw [← whole, List.length_append, length, first, Nat.add_comm]

end Sys2Proof
end

section
/-! PROOFS. The reserved words, and the opcodes that two instructions share. -/

namespace Sys2Proof.Machine

/-! ## When a format reserves a word (R81) -/

theorem formatSH24_eq_none_iff {w : BitVec 24} {mk : Reg → Reg → BitVec 4 → Instr} :
    formatSH24 w mk = none ↔ w.extractLsb' 6 2 ≠ 0#2 ∨ w.extractLsb' 20 4 ≠ 0#4 := by
  simp only [formatSH24, ite_eq_right_iff, reduceCtorEq, imp_false, not_and_or, or_comm, ne_eq]

theorem formatR24_eq_none_iff {w : BitVec 24} {mk : Reg → Reg → Reg → Instr} :
    formatR24 w mk = none ↔ w.extractLsb' 6 2 ≠ 0#2 ∨ w.extractLsb' 20 4 ≠ 0#4 :=
  formatSH24_eq_none_iff (mk := fun a b c => mk a b c.toFin)

theorem formatLiSb_eq_none_iff {p : Params} {w : BitVec 24} :
    formatLiSb p w = none ↔ w.extractLsb' 12 4 ≠ 0#4 ∧ p.sbAdmitted = false := by
  simp [formatLiSb, ite_eq_iff]

theorem formatJ24_eq_none_iff {p : Params} {w : BitVec 24} :
    formatJ24 p w = none ↔ w.extractLsb' 6 2 ≠ 0#2 ∨ p.j24 = .notAdmitted := by
  unfold formatJ24
  split
  · cases p.j24 <;> simp [*]
  · simp [*]

theorem formatZero16_eq_none_iff {w : BitVec 16} :
    formatZero16 w = none ↔ w ≠ 0#16 ∧ (w.extractLsb' 6 2 = 0#2 ∨ w.extractLsb' 6 2 = 1#2) := by
  have four : ∀ mid : BitVec 2, (mid = 0#2 ∨ mid = 1#2) ↔ mid ≠ 2#2 ∧ mid ≠ 3#2 := by decide
  simp [formatZero16, ite_eq_iff, four]

theorem formatR16_eq_none_iff {w : BitVec 16} {mk : Reg → Reg → Instr} :
    formatR16 w mk = none ↔ w.extractLsb' 6 2 ≠ 2#2 := by
  simp [formatR16]

theorem formatSH16_eq_none_iff {w : BitVec 16} {mk : Reg → BitVec 4 → Instr} :
    formatSH16 w mk = none ↔ w.extractLsb' 6 2 ≠ 0#2 := by
  simp [formatSH16]

theorem formatJR16_eq_none_iff {w : BitVec 16} {mk : Reg → Instr} :
    formatJR16 w mk = none ↔ w.extractLsb' 6 2 ≠ 0#2 ∨ w.extractLsb' 12 4 ≠ 0#4 := by
  simp only [formatJR16, ite_eq_right_iff, reduceCtorEq, imp_false, not_and_or, or_comm, ne_eq]

/-! ## R80's cases, opcode by opcode -/

section Cases

variable {p : Params} {w : BitVec 24} {v : BitVec 16} {op : BitVec 6}

/-- Cases 1 and 2. -/
theorem reserved24_of_R24 {mk} (row : RowR24 op mk) (low : w.extractLsb' 0 6 = op) :
    Reserved24 p w ↔ w.extractLsb' 6 2 ≠ 0#2 ∨ w.extractLsb' 20 4 ≠ 0#4 := by
  cases row <;> simp [Reserved24, low, extract_of_low6 low 0 3] <;> tauto

/-- Case 4. -/
theorem reserved24_of_SH24 {mk} (row : RowSH24 op mk) (low : w.extractLsb' 0 6 = op) :
    Reserved24 p w ↔ w.extractLsb' 6 2 ≠ 0#2 ∨ w.extractLsb' 20 4 ≠ 0#4 := by
  cases row <;> simp [Reserved24, low, extract_of_low6 low 0 3]

theorem not_reserved24_of_I24 {mk} (row : RowI24 op mk) (low : w.extractLsb' 0 6 = op) : ¬Reserved24 p w := by
  cases row <;> simp [Reserved24, low, extract_of_low6 low 0 3]

theorem not_reserved24_of_B24 {mk} (row : RowB24 op mk) (low : w.extractLsb' 0 6 = op) : ¬Reserved24 p w := by
  cases row <;> simp [Reserved24, low, extract_of_low6 low 0 3]

/-- Case 6. -/
theorem reserved24_of_liSb (low : w.extractLsb' 0 6 = 0b110101#6) :
    Reserved24 p w ↔ w.extractLsb' 12 4 ≠ 0#4 ∧ p.sbAdmitted = false := by
  simp [Reserved24, low, extract_of_low6 low 0 3]

/-- Case 7. -/
theorem reserved24_of_j24 (low : w.extractLsb' 0 6 = 0b000111#6) :
    Reserved24 p w ↔ w.extractLsb' 6 2 ≠ 0#2 ∨ p.j24 = .notAdmitted := by
  simp [Reserved24, low, extract_of_low6 low 0 3]

/-- Cases 3, 5 and 8. -/
theorem reserved24_of_unlisted (low : w.extractLsb' 0 6 ∈ unlisted24) : Reserved24 p w := by
  simp only [unlisted24, List.mem_cons, List.not_mem_nil, or_false] at low
  rcases low with low | low | low | low | low <;> simp [Reserved24, low]

/-- Cases 9 and 10; case 11 asks for insn[5:3] not 000. -/
theorem reserved16_of_zero16 (low : v.extractLsb' 0 6 = 0b000000#6) :
    Reserved16 v ↔ v ≠ 0#16 ∧ (v.extractLsb' 6 2 = 0#2 ∨ v.extractLsb' 6 2 = 1#2) := by
  have nonzero : v.extractLsb' 6 2 = 1#2 → v ≠ 0#16 := by
    rintro mid rfl
    cases mid
  simp [Reserved16, low, extract_of_low6 low 0 3, extract_of_low6 low 0 5, extract_of_low6 low 3 3]
  tauto

/-- Cases 9, 10 and 11: with insn[5:3] not 000 they leave insn[7:6] = 10 only. -/
theorem reserved16_of_R16 {mk} (row : RowR16 op mk) (low : v.extractLsb' 0 6 = op) :
    Reserved16 v ↔ v.extractLsb' 6 2 ≠ 2#2 := by
  have four : ∀ mid : BitVec 2, mid = 1#2 ∨ mid = 0#2 ∨ mid = 3#2 ↔ mid ≠ 2#2 := by decide
  have nonzero : v ≠ 0#16 := by
    rintro rfl
    cases row <;> cases low
  rw [← four]
  cases row <;>
    simp [Reserved16, low, extract_of_low6 low 0 3, extract_of_low6 low 0 5, extract_of_low6 low 3 3, nonzero]

theorem not_reserved16_of_I16 {mk} (row : RowI16 op mk) (low : v.extractLsb' 0 6 = op) : ¬Reserved16 v := by
  cases row <;> simp [Reserved16, low, extract_of_low6 low 0 3, extract_of_low6 low 0 5]

theorem not_reserved16_of_SP16 {mk} (row : RowSP16 op mk) (low : v.extractLsb' 0 6 = op) : ¬Reserved16 v := by
  cases row <;> simp [Reserved16, low, extract_of_low6 low 0 3, extract_of_low6 low 0 5]

/-- Case 13. -/
theorem reserved16_of_SH16 {mk} (row : RowSH16 op mk) (low : v.extractLsb' 0 6 = op) :
    Reserved16 v ↔ v.extractLsb' 6 2 ≠ 0#2 := by
  cases row <;> simp [Reserved16, low, extract_of_low6 low 0 3, extract_of_low6 low 0 5]

/-- Case 15, where insn[5] = 0. -/
theorem reserved16_of_JR16 {mk} (row : RowJR16 op mk) (low : v.extractLsb' 0 6 = op) :
    Reserved16 v ↔ v.extractLsb' 6 2 ≠ 0#2 ∨ v.extractLsb' 12 4 ≠ 0#4 := by
  have bit5 : op.extractLsb' 5 1 = 0#1 := by cases row <;> rfl
  have bits7_5 : v.extractLsb' 5 3 = v.extractLsb' 6 2 ++ 0#1 := by
    rw [← bit5, ← extract_of_low6 low 5 1, extract_append v 5 2 1]
  have same : ∀ mid : BitVec 2, mid ++ 0#1 = 0#3 ↔ mid = 0#2 := by decide
  cases row <;> simp [Reserved16, low, extract_of_low6 low 0 3, extract_of_low6 low 0 5, bits7_5, same]

theorem not_reserved16_of_JS16 {op : BitVec 5} {mk} (row : RowJS16 op mk) (low : v.extractLsb' 0 5 = op) :
    ¬Reserved16 v := by
  cases row <;> rcases low6_of_low5 low with low6 | low6 <;> simp [Reserved16, low, low6, extract_of_low6 low6 0 3]

/-- Cases 12 and 14, and case 15 where insn[5] = 1. -/
theorem reserved16_of_unlisted (low : v.extractLsb' 0 6 ∈ unlisted16) : Reserved16 v := by
  have bits7_5 : v.extractLsb' 5 1 = 1#1 → v.extractLsb' 5 3 ≠ 0#3 := by
    intro bit5 zero
    have part : (v.extractLsb' 5 3).extractLsb' 0 1 = v.extractLsb' 5 1 := extract_extract v (by decide)
    rw [zero, bit5] at part
    cases part
  simp only [unlisted16, List.mem_cons, List.not_mem_nil, or_false] at low
  rcases low with low | low | low | low | low | low | low | low | low <;>
    simp [Reserved16, low, extract_of_low6 low 0 5, bits7_5, extract_of_low6 low 5 1]

end Cases

theorem decode24_eq_none_iff {p : Params} {w : BitVec 24} (odd : w[0] = true) :
    decode24 p w = none ↔ Reserved24 p w := by
  have reads := decode24_reads p w
  generalize decode24 p w = r at reads
  cases reads with
  | r24 row low => rw [formatR24_eq_none_iff, reserved24_of_R24 row low]
  | sh24 row low => rw [formatSH24_eq_none_iff, reserved24_of_SH24 row low]
  | i24 row low => exact iff_of_false (Option.some_ne_none _) (not_reserved24_of_I24 row low)
  | b24 row low => exact iff_of_false (Option.some_ne_none _) (not_reserved24_of_B24 row low)
  | liSb low => rw [formatLiSb_eq_none_iff, reserved24_of_liSb low]
  | j24 low => rw [formatJ24_eq_none_iff, reserved24_of_j24 low]
  | unlisted gap =>
    have bit : (w.extractLsb' 0 6)[0] = true := by simpa using odd
    exact iff_of_true rfl (reserved24_of_unlisted (mem_unlisted24 _ gap bit))

theorem decode16_eq_none_iff {w : BitVec 16} (even : w[0] = false) : decode16 w = none ↔ Reserved16 w := by
  have reads := decode16_reads w
  generalize decode16 w = r at reads
  cases reads with
  | zero16 low => rw [formatZero16_eq_none_iff, reserved16_of_zero16 low]
  | r16 row low => rw [formatR16_eq_none_iff, reserved16_of_R16 row low]
  | i16 row low => exact iff_of_false (Option.some_ne_none _) (not_reserved16_of_I16 row low)
  | sh16 row low => rw [formatSH16_eq_none_iff, reserved16_of_SH16 row low]
  | sp16 row low => exact iff_of_false (Option.some_ne_none _) (not_reserved16_of_SP16 row low)
  | jr16 row low => rw [formatJR16_eq_none_iff, reserved16_of_JR16 row low]
  | js16 row low => exact iff_of_false (Option.some_ne_none _) (not_reserved16_of_JS16 row low)
  | unlisted gap =>
    have bit : (w.extractLsb' 0 6)[0] = false := by simpa using even
    exact iff_of_true rfl (reserved16_of_unlisted (mem_unlisted16 _ gap bit))

/-- Settles O4: opcode by opcode, a word is reserved where its format says so and where R80 does. -/
theorem reservedWordsAreTheFifteenCases : Obligations.ReservedWordsAreTheFifteenCases :=
  ⟨fun _ _ odd => decode24_eq_none_iff odd, fun _ even => decode16_eq_none_iff even⟩

/-! ## A step at a reserved word (R80) -/

theorem insnOfBytes_three (b0 b1 b2 : Byte) : insnOfBytes [b0, b1, b2] = word24 b0 b1 b2 := by
  ext i hi
  grind [insnOfBytes, word24]

theorem insnOfBytes_two (b0 b1 : Byte) : insnOfBytes [b0, b1] = (word16 b0 b1).setWidth 24 := by
  ext i hi
  grind [insnOfBytes, word16]

/-- Bit 0 of the lowest byte is bit 0 of the word (R33). -/
theorem append_byte_bit0 {n : Nat} (x : BitVec n) (b0 : Byte) : (x ++ b0).getLsbD 0 = b0[0] := by
  rw [← byte0_bit0, low_of_append]

theorem step_of_decode_error {s : State} {bytes : List Byte} {r : Reject} (fetched : s.fetch = .next bytes)
    (reject : decode s.params bytes = .error r) :
    step s = .fault (.illegalInstruction s.pc (insnOfBytes bytes)) :=
  step_eq_fault.2 (.inr ⟨bytes, fetched, .inl ⟨r, reject, rfl⟩⟩)

/-- Settles O50: the decoder refuses the reserved word (O4), and the step reports the bytes fetched. -/
theorem reservedWordIsIllegalInstruction : Obligations.ReservedWordIsIllegalInstruction := by
  intro s b0 b1 b2
  refine ⟨fun fetched reserved odd => ?_, fun fetched reserved even => ?_⟩
  · have bit : (word24 b0 b1 b2)[0] = true := (append_byte_bit0 (b2 ++ b1) b0).trans odd
    have none24 : decode24 s.params (word24 b0 b1 b2) = none := (decode24_eq_none_iff bit).2 reserved
    rw [← insnOfBytes_three]
    exact step_of_decode_error fetched (by simp only [decode, odd, if_true, none24]; rfl)
  · have bit : (word16 b0 b1)[0] = false := (append_byte_bit0 b1 b0).trans even
    have none16 : decode16 (word16 b0 b1) = none := (decode16_eq_none_iff bit).2 reserved
    rw [← insnOfBytes_two]
    exact step_of_decode_error fetched (by simp only [decode, even, none16]; rfl)

/-! ## Opcodes that two instructions share -/

/-- A register field is four bits of the word's value. -/
theorem regField_eq_ofNat {n : Nat} (w : BitVec n) (lo : Nat) : regField w lo = Fin.ofNat 16 (w.toNat / 2 ^ lo) := by
  apply Fin.ext
  simp [regField, Nat.shiftRight_eq_div_pow]

/-- Settles O6: the opcode is read by `formatLiSb`, whose register fields are numbers of the word's value. -/
theorem liAndSbShareOneOpcode : Obligations.LiAndSbShareOneOpcode := by
  intro p w low
  rw [decode24_of_liSb low, formatLiSb, regField_eq_ofNat, regField_eq_ofNat, simm10Field]

/-- Settles O7: the opcode is read by `formatJ24`, which asks for insn[7:6] = 00 and then for the parameter. -/
theorem oneWordPatternForJAndJal : Obligations.OneWordPatternForJAndJal := by
  refine ⟨rfl, fun p w => ⟨fun low8 => ?_, fun low mid => ?_⟩⟩
  · obtain ⟨low, mid⟩ := opcode8_parts (mid := 0#2) (op := 0b000111#6) low8
    rw [decode24_of_j24 low, formatJ24, if_pos mid]
    rfl
  · rw [decode24_of_j24 low, formatJ24, if_neg mid]

/-- Settles O8: ten words, evaluated. -/
theorem writtenOutWordsDecode : Obligations.WrittenOutWordsDecode := by
  unfold Obligations.WrittenOutWordsDecode
  decide

end Sys2Proof.Machine
end

section
/-! PROOFS. The decoder and the opcode table. A word's opcode leaves one row of the table, or the two or three of an
opcode that instructions share; under such a row's mask the word is compared with the bits its format fixes. -/

namespace Sys2Proof.Machine

/-! ## The rows of an opcode -/

/-- The rows whose masked opcode bits are those of `op`. -/
def opcodeRows {n : Nat} (rows : List (OpcodeRow n)) (op : BitVec 6) : List (OpcodeRow n) :=
  rows.filter fun r => op &&& r.mask.extractLsb' 0 6 == r.value.extractLsb' 0 6

/-- Rows of other opcodes do not match: the first row that matches is the first of the word's opcode. -/
theorem find?_opcodeRows {n : Nat} (rows : List (OpcodeRow n)) {w : BitVec n} {op : BitVec 6}
    (low : w.extractLsb' 0 6 = op) : rows.find? (rowMatches w) = (opcodeRows rows op).find? (rowMatches w) := by
  rw [opcodeRows, List.find?_filter]
  refine List.find?_congr fun r _ => ?_
  have masked : rowMatches w r = true → op &&& r.mask.extractLsb' 0 6 = r.value.extractLsb' 0 6 := by
    intro h
    simp only [rowMatches, Bool.and_eq_true, beq_iff_eq] at h
    rw [← low, ← BitVec.extractLsb'_and, h.1]
  cases h : rowMatches w r
  · simp
  · simp [masked h]

theorem tableDecode24_of_row {p : Params} {w : BitVec 24} {op : BitVec 6} {r : OpcodeRow 24}
    (low : w.extractLsb' 0 6 = op) (only : opcodeRows (rows24 p w) op = [r]) :
    tableDecode24 p w = if rowMatches w r then some r.instr else none := by
  rw [tableDecode24, find?_opcodeRows _ low, only, List.find?_singleton]
  split <;> rfl

theorem tableDecode16_of_row {w : BitVec 16} {op : BitVec 6} {r : OpcodeRow 16}
    (low : w.extractLsb' 0 6 = op) (only : opcodeRows (rows16 w) op = [r]) :
    tableDecode16 w = if rowMatches w r then some r.instr else none := by
  rw [tableDecode16, find?_opcodeRows _ low, only, List.find?_singleton]
  split <;> rfl

/-! ## A mask is the fields it keeps -/

/-- A word is a value under a mask exactly where it has the value's fields, if these fields are the mask's bits. -/
theorem masked_eq_iff {n : Nat} {w m v : BitVec n} (fields : List (Nat × Nat)) (within : v &&& m = v)
    (kept : ∀ f ∈ fields, m.extractLsb' f.1 f.2 = BitVec.allOnes f.2)
    (covered : ∀ k < n, m.getLsbD k = true → ∃ f ∈ fields, f.1 ≤ k ∧ k < f.1 + f.2) :
    w &&& m = v ↔ ∀ f ∈ fields, w.extractLsb' f.1 f.2 = v.extractLsb' f.1 f.2 := by
  constructor
  · intro h f hf
    exact extract_of_masked h (kept f hf)
  · intro h
    rw [← within]
    refine masked_eq_masked fun k hk hm => ?_
    obtain ⟨f, hf, above, below⟩ := covered k hk hm
    exact bit_of_extract (h f hf) above below

section Masks

variable {w : BitVec 24} {v : BitVec 16} {op : BitVec 6}

theorem masked_opcode6_iff24 : w &&& 0x00003F#24 = op.setWidth 24 ↔ w.extractLsb' 0 6 = op := by
  have value : ∀ op : BitVec 6, op.setWidth 24 &&& 0x00003F#24 = op.setWidth 24 ∧
    (op.setWidth 24).extractLsb' 0 6 = op := by decide
  obtain ⟨within, low⟩ := value op
  rw [masked_eq_iff [(0, 6)] within (by decide) (by decide)]
  simp [low]

theorem masked_opcode6_iff16 : v &&& 0x003F#16 = op.setWidth 16 ↔ v.extractLsb' 0 6 = op := by
  have value : ∀ op : BitVec 6, op.setWidth 16 &&& 0x003F#16 = op.setWidth 16 ∧
    (op.setWidth 16).extractLsb' 0 6 = op := by decide
  obtain ⟨within, low⟩ := value op
  rw [masked_eq_iff [(0, 6)] within (by decide) (by decide)]
  simp [low]

/-- The mask of formats R24 and SH24. -/
theorem masked_opcode8_zero4_iff24 :
    w &&& 0xF000FF#24 = op.setWidth 24 ↔
      w.extractLsb' 0 6 = op ∧ w.extractLsb' 6 2 = 0#2 ∧ w.extractLsb' 20 4 = 0#4 := by
  have value : ∀ op : BitVec 6, op.setWidth 24 &&& 0xF000FF#24 = op.setWidth 24 ∧
    (op.setWidth 24).extractLsb' 0 6 = op ∧ (op.setWidth 24).extractLsb' 6 2 = 0#2 ∧
      (op.setWidth 24).extractLsb' 20 4 = 0#4 := by decide
  obtain ⟨within, low, mid, top⟩ := value op
  rw [masked_eq_iff [(0, 6), (6, 2), (20, 4)] within (by decide) (by decide)]
  simp [low, mid, top]

/-- The mask of `li`. -/
theorem masked_li_iff :
    w &&& 0x00F03F#24 = 0x000035#24 ↔ w.extractLsb' 0 6 = 0b110101#6 ∧ w.extractLsb' 12 4 = 0#4 := by
  rw [masked_eq_iff [(0, 6), (12, 4)] (by decide) (by decide) (by decide)]
  simp

/-- The mask of `j` and `jal`. -/
theorem masked_j24_iff :
    w &&& 0x0000FF#24 = 0x000007#24 ↔ w.extractLsb' 0 6 = 0b000111#6 ∧ w.extractLsb' 6 2 = 0#2 := by
  rw [masked_eq_iff [(0, 6), (6, 2)] (by decide) (by decide) (by decide)]
  simp

/-- The mask of formats R16 and SH16. -/
theorem masked_opcode8_iff16 {mid : BitVec 2} :
    v &&& 0x00FF#16 = (mid ++ op).setWidth 16 ↔ v.extractLsb' 0 6 = op ∧ v.extractLsb' 6 2 = mid := by
  have value : ∀ (mid : BitVec 2) (op : BitVec 6), (mid ++ op).setWidth 16 &&& 0x00FF#16 = (mid ++ op).setWidth 16 ∧
    ((mid ++ op).setWidth 16).extractLsb' 0 6 = op ∧ ((mid ++ op).setWidth 16).extractLsb' 6 2 = mid := by decide
  obtain ⟨within, low, has⟩ := value mid op
  rw [masked_eq_iff [(0, 6), (6, 2)] within (by decide) (by decide)]
  simp [low, has]

/-- The mask of format JR16. -/
theorem masked_opcode8_zero4_iff16 :
    v &&& 0xF0FF#16 = op.setWidth 16 ↔
      v.extractLsb' 0 6 = op ∧ v.extractLsb' 6 2 = 0#2 ∧ v.extractLsb' 12 4 = 0#4 := by
  have value : ∀ op : BitVec 6, op.setWidth 16 &&& 0xF0FF#16 = op.setWidth 16 ∧
    (op.setWidth 16).extractLsb' 0 6 = op ∧ (op.setWidth 16).extractLsb' 6 2 = 0#2 ∧
      (op.setWidth 16).extractLsb' 12 4 = 0#4 := by decide
  obtain ⟨within, low, mid, top⟩ := value op
  rw [masked_eq_iff [(0, 6), (6, 2), (12, 4)] within (by decide) (by decide)]
  simp [low, mid, top]

/-- The mask of format JS16. -/
theorem masked_opcode5_iff16 {op : BitVec 5} : v &&& 0x001F#16 = op.setWidth 16 ↔ v.extractLsb' 0 5 = op := by
  have value : ∀ op : BitVec 5, op.setWidth 16 &&& 0x001F#16 = op.setWidth 16 ∧
    (op.setWidth 16).extractLsb' 0 5 = op := by decide
  obtain ⟨within, low⟩ := value op
  rw [masked_eq_iff [(0, 5)] within (by decide) (by decide)]
  simp [low]

end Masks

/-! ## The table reads an opcode as its format does -/

section Table

variable {p : Params} {w : BitVec 24} {v : BitVec 16} {op : BitVec 6}

theorem tableDecode24_of_R24 {mk} (row : RowR24 op mk) (low : w.extractLsb' 0 6 = op) :
    tableDecode24 p w = formatR24 w mk := by
  have only : opcodeRows (rows24 p w) op =
      [⟨0xF000FF#24, op.setWidth 24, true, mk (regField w 8) (regField w 12) (regField w 16)⟩] := by
    cases row <;> simp [opcodeRows, rows24]
  rw [tableDecode24_of_row low only]
  simp [rowMatches, masked_opcode8_zero4_iff24, low, formatR24, and_comm]

theorem tableDecode24_of_SH24 {mk} (row : RowSH24 op mk) (low : w.extractLsb' 0 6 = op) :
    tableDecode24 p w = formatSH24 w mk := by
  have only : opcodeRows (rows24 p w) op =
      [⟨0xF000FF#24, op.setWidth 24, true, mk (regField w 8) (regField w 12) (w.extractLsb' 16 4)⟩] := by
    cases row <;> simp [opcodeRows, rows24]
  rw [tableDecode24_of_row low only]
  simp [rowMatches, masked_opcode8_zero4_iff24, low, formatSH24, and_comm]

theorem tableDecode24_of_I24 {mk} (row : RowI24 op mk) (low : w.extractLsb' 0 6 = op) :
    tableDecode24 p w = formatI24 w mk := by
  have only : opcodeRows (rows24 p w) op =
      [⟨0x00003F#24, op.setWidth 24, true, mk (regField w 8) (regField w 12) (simm10Field w)⟩] := by
    cases row <;> simp [opcodeRows, rows24]
  rw [tableDecode24_of_row low only]
  simp [rowMatches, masked_opcode6_iff24, low, formatI24]

theorem tableDecode24_of_B24 {mk} (row : RowB24 op mk) (low : w.extractLsb' 0 6 = op) :
    tableDecode24 p w = formatB24 w mk := by
  have only : opcodeRows (rows24 p w) op =
      [⟨0x00003F#24, op.setWidth 24, true, mk (regField w 12) (regField w 8) (simm10Field w)⟩] := by
    -- `BitVec.and_self` would have simp unfold a field of the mask to compare it with the opcode 111111.
    cases row <;> simp [opcodeRows, rows24, -BitVec.and_self]
  rw [tableDecode24_of_row low only]
  simp [rowMatches, masked_opcode6_iff24, low, formatB24]

/-- The row of `li` stands before that of `sb` (R76). -/
theorem tableDecode24_of_liSb (low : w.extractLsb' 0 6 = 0b110101#6) : tableDecode24 p w = formatLiSb p w := by
  have both : opcodeRows (rows24 p w) 0b110101#6 =
      [⟨0x00F03F#24, 0x000035#24, true, .li (regField w 8) (simm10Field w)⟩,
        ⟨0x00003F#24, 0x000035#24, w.extractLsb' 12 4 != 0#4 && p.sbAdmitted,
          .sb (regField w 8) (regField w 12) (simm10Field w)⟩] := by
    simp [opcodeRows, rows24]
  have opcode : w &&& 0x00003F#24 = 0x000035#24 := masked_opcode6_iff24.2 low
  rw [tableDecode24, find?_opcodeRows _ low, both, formatLiSb]
  by_cases zero : w.extractLsb' 12 4 = 0#4 <;> by_cases admitted : p.sbAdmitted = true <;>
    simp [rowMatches, masked_li_iff, low, opcode, zero, admitted]

/-- The parameter admits one of the two rows, or none (R129). -/
theorem tableDecode24_of_j24 (low : w.extractLsb' 0 6 = 0b000111#6) : tableDecode24 p w = formatJ24 p w := by
  have both : opcodeRows (rows24 p w) 0b000111#6 =
      [⟨0x0000FF#24, 0x000007#24, p.j24 == .j, .j (simm16Field w)⟩,
        ⟨0x0000FF#24, 0x000007#24, p.j24 == .jal, .jal (simm16Field w)⟩] := by
    simp [opcodeRows, rows24]
  rw [tableDecode24, find?_opcodeRows _ low, both, formatJ24]
  by_cases mid : w.extractLsb' 6 2 = 0#2 <;> cases h : p.j24 <;> simp [rowMatches, masked_j24_iff, low, mid]

theorem rows24_opcode_ne_of_unlisted {r : OpcodeRow 24} (row : r ∈ rows24 p w) :
    ∀ op ∉ listed24, op &&& r.mask.extractLsb' 0 6 ≠ r.value.extractLsb' 0 6 := by
  have all : ∀ r ∈ rows24 p w, ∀ op ∉ listed24, op &&& r.mask.extractLsb' 0 6 ≠ r.value.extractLsb' 0 6 := by
    simp only [rows24, List.forall_mem_cons, List.not_mem_nil, false_imp_iff, implies_true, and_true]
    and_intros <;> decide
  exact all r row

theorem tableDecode24_of_unlisted (gap : w.extractLsb' 0 6 ∉ listed24) : tableDecode24 p w = none := by
  have none24 : opcodeRows (rows24 p w) (w.extractLsb' 0 6) = [] :=
    List.filter_eq_nil_iff.2 fun r row same => rows24_opcode_ne_of_unlisted row _ gap (beq_iff_eq.1 same)
  rw [tableDecode24, find?_opcodeRows _ rfl, none24]
  rfl

/-- `nop`'s row stands behind those of `mov` and `add2`, which do not match the word 0. -/
theorem tableDecode16_of_zero16 (low : v.extractLsb' 0 6 = 0b000000#6) : tableDecode16 v = formatZero16 v := by
  have three : opcodeRows (rows16 v) 0b000000#6 =
      [⟨0x00FF#16, 0x00C0#16, true, .mov (regField v 8) (regField v 12)⟩,
        ⟨0x00FF#16, 0x0080#16, true, .add2 (regField v 8) (regField v 12)⟩,
        ⟨0xFFFF#16, 0x0000#16, true, .nop⟩] := by
    simp [opcodeRows, rows16]
  have whole : v &&& 0xFFFF#16 = v := BitVec.and_allOnes
  have isMov : v &&& 0x00FF#16 = 0x00C0#16 ↔ v.extractLsb' 0 6 = 0#6 ∧ v.extractLsb' 6 2 = 3#2 :=
    masked_opcode8_iff16 (mid := 3#2) (op := 0#6)
  have isAdd2 : v &&& 0x00FF#16 = 0x0080#16 ↔ v.extractLsb' 0 6 = 0#6 ∧ v.extractLsb' 6 2 = 2#2 :=
    masked_opcode8_iff16 (mid := 2#2) (op := 0#6)
  rw [tableDecode16, find?_opcodeRows _ low, three, formatZero16]
  by_cases zero : v = 0#16
  · subst zero
    rfl
  · by_cases mid2 : v.extractLsb' 6 2 = 2#2 <;> by_cases mid3 : v.extractLsb' 6 2 = 3#2 <;>
      simp_all [rowMatches]

theorem tableDecode16_of_R16 {mk} (row : RowR16 op mk) (low : v.extractLsb' 0 6 = op) :
    tableDecode16 v = formatR16 v mk := by
  have only : opcodeRows (rows16 v) op =
      [⟨0x00FF#16, (2#2 ++ op).setWidth 16, true, mk (regField v 8) (regField v 12)⟩] := by
    cases row <;> simp [opcodeRows, rows16]
  rw [tableDecode16_of_row low only]
  simp [rowMatches, masked_opcode8_iff16, low, formatR16]

theorem tableDecode16_of_I16 {mk} (row : RowI16 op mk) (low : v.extractLsb' 0 6 = op) :
    tableDecode16 v = formatI16 v mk := by
  have only : opcodeRows (rows16 v) op =
      [⟨0x003F#16, op.setWidth 16, true, mk (regField v 8) (simm6Field v)⟩] := by
    cases row <;> simp [opcodeRows, rows16]
  rw [tableDecode16_of_row low only]
  simp [rowMatches, masked_opcode6_iff16, low, formatI16]

theorem tableDecode16_of_SH16 {mk} (row : RowSH16 op mk) (low : v.extractLsb' 0 6 = op) :
    tableDecode16 v = formatSH16 v mk := by
  have only : opcodeRows (rows16 v) op =
      [⟨0x00FF#16, (0#2 ++ op).setWidth 16, true, mk (regField v 8) (v.extractLsb' 12 4)⟩] := by
    cases row <;> simp [opcodeRows, rows16]
  rw [tableDecode16_of_row low only]
  simp only [rowMatches, Bool.and_true, beq_iff_eq, masked_opcode8_iff16, low, true_and, formatSH16]

theorem tableDecode16_of_JR16 {mk} (row : RowJR16 op mk) (low : v.extractLsb' 0 6 = op) :
    tableDecode16 v = formatJR16 v mk := by
  have only : opcodeRows (rows16 v) op = [⟨0xF0FF#16, op.setWidth 16, true, mk (regField v 8)⟩] := by
    cases row <;> simp [opcodeRows, rows16]
  rw [tableDecode16_of_row low only]
  simp [rowMatches, masked_opcode8_zero4_iff16, low, formatJR16, and_comm]

theorem tableDecode16_of_SP16 {mk} (row : RowSP16 op mk) (low : v.extractLsb' 0 6 = op) :
    tableDecode16 v = formatSP16 v mk := by
  have only : opcodeRows (rows16 v) op =
      [⟨0x003F#16, op.setWidth 16, true, mk (regField v 8) (uimm7Field v)⟩] := by
    cases row <;> simp [opcodeRows, rows16]
  rw [tableDecode16_of_row low only]
  simp [rowMatches, masked_opcode6_iff16, low, formatSP16]

theorem tableDecode16_of_JS16 {op : BitVec 5} {mk} (row : RowJS16 op mk) (low : v.extractLsb' 0 5 = op) :
    tableDecode16 v = some (mk (simm11Field v)) := by
  have only (bit5 : BitVec 1) : opcodeRows (rows16 v) (bit5 ++ op) =
      [⟨0x001F#16, op.setWidth 16, true, mk (simm11Field v)⟩] := by
    rcases BitVec.eq_zero_or_eq_one bit5 with rfl | rfl <;> cases row <;> simp [opcodeRows, rows16]
  have low6 : v.extractLsb' 0 6 = v.extractLsb' 5 1 ++ op := by rw [← low, extract_append v 0 1 5]
  rw [tableDecode16_of_row low6 (only _)]
  simp [rowMatches, masked_opcode5_iff16, low]

theorem rows16_opcode_ne_of_unlisted {r : OpcodeRow 16} (row : r ∈ rows16 v) :
    ∀ op ∉ listed16, op &&& r.mask.extractLsb' 0 6 ≠ r.value.extractLsb' 0 6 := by
  have all : ∀ r ∈ rows16 v, ∀ op ∉ listed16, op &&& r.mask.extractLsb' 0 6 ≠ r.value.extractLsb' 0 6 := by
    simp only [rows16, List.forall_mem_cons, List.not_mem_nil, false_imp_iff, implies_true, and_true]
    and_intros <;> decide
  exact all r row

theorem tableDecode16_of_unlisted (gap : v.extractLsb' 0 6 ∉ listed16) : tableDecode16 v = none := by
  have none16 : opcodeRows (rows16 v) (v.extractLsb' 0 6) = [] :=
    List.filter_eq_nil_iff.2 fun r row same => rows16_opcode_ne_of_unlisted row _ gap (beq_iff_eq.1 same)
  rw [tableDecode16, find?_opcodeRows _ rfl, none16]
  rfl

end Table

/-- Settles O3: opcode by opcode, the table's rows and the decoder's arm ask for the same fixed bits. -/
theorem decoderAgreesWithOpcodeTable : Obligations.DecoderAgreesWithOpcodeTable := by
  refine ⟨fun p w => ?_, fun w => ?_⟩
  · have reads := decode24_reads p w
    generalize decode24 p w = r at reads
    cases reads with
    | r24 row low => exact (tableDecode24_of_R24 row low).symm
    | sh24 row low => exact (tableDecode24_of_SH24 row low).symm
    | i24 row low => exact (tableDecode24_of_I24 row low).symm
    | b24 row low => exact (tableDecode24_of_B24 row low).symm
    | liSb low => exact (tableDecode24_of_liSb low).symm
    | j24 low => exact (tableDecode24_of_j24 low).symm
    | unlisted gap => exact (tableDecode24_of_unlisted gap).symm
  · have reads := decode16_reads w
    generalize decode16 w = r at reads
    cases reads with
    | zero16 low => exact (tableDecode16_of_zero16 low).symm
    | r16 row low => exact (tableDecode16_of_R16 row low).symm
    | i16 row low => exact (tableDecode16_of_I16 row low).symm
    | sh16 row low => exact (tableDecode16_of_SH16 row low).symm
    | sp16 row low => exact (tableDecode16_of_SP16 row low).symm
    | jr16 row low => exact (tableDecode16_of_JR16 row low).symm
    | js16 row low => exact (tableDecode16_of_JS16 row low).symm
    | unlisted gap => exact (tableDecode16_of_unlisted gap).symm

end Sys2Proof.Machine
end

section
/-! PROOFS. What the statements about one instruction at a time share: the opcode in an encoding, the arithmetic of
words in the spec's numbers, and the register write and the register shift in the words of `Sys2Proof/Safety.lean`. -/

namespace Sys2Proof

open Machine

/-! ## The opcode in a 24-bit encoding (R74) -/

theorem insnOfBytes_bytes24 (w : BitVec 24) : insnOfBytes (bytes24 w) = w := by
  rw [bytes24, insnOfBytes_three, word24_bytes]

theorem hasOpcode_of_bytes24 {i : Instr} {w : BitVec 24} {k : Nat} {op : BitVec k} (word : encode i = bytes24 w)
    (low : w.extractLsb' 0 k = op) : HasOpcode i k op.toNat := by
  rw [HasOpcode, word, insnOfBytes_bytes24, ← low, BitVec.extractLsb'_toNat, Nat.shiftRight_zero]

section Rows

variable {op : BitVec 6}

theorem RowSH24.hasOpcode {mk} (row : RowSH24 op mk) (rd rs1 : Reg) (uimm4 : BitVec 4) :
    HasOpcode (mk rd rs1 uimm4) 8 (0#2 ++ op).toNat := by
  obtain ⟨w, word, low8, -⟩ := encodeR24_fields (0#2 ++ op) uimm4 (regBits rs1) (regBits rd)
  exact hasOpcode_of_bytes24 ((row.encode_eq rd rs1 uimm4).trans word) low8

theorem RowR24.hasOpcode {mk} (row : RowR24 op mk) (rd rs1 rs2 : Reg) :
    HasOpcode (mk rd rs1 rs2) 8 (0#2 ++ op).toNat := by
  obtain ⟨w, word, low8, -⟩ := encodeR24_fields (0#2 ++ op) (regBits rs2) (regBits rs1) (regBits rd)
  exact hasOpcode_of_bytes24 ((row.encode_eq rd rs1 rs2).trans word) low8

theorem RowI24.hasOpcode {mk} (row : RowI24 op mk) (at8 at12 : Reg) (imm : BitVec 10) :
    HasOpcode (mk at8 at12 imm) 6 op.toNat := by
  obtain ⟨w, word, low, -⟩ := encodeI24_fields op at12 at8 imm
  exact hasOpcode_of_bytes24 ((row.encode_eq at8 at12 imm).trans word) low

end Rows

end Sys2Proof

namespace Sys2Proof.Machine

/-! ## Words as numbers (R5, R6) -/

theorem add_eq_ofNat (a b : Word) : a + b = BitVec.ofNat 16 (a.toNat + b.toNat) := by
  rw [BitVec.ofNat_add, BitVec.ofNat_toNat, BitVec.ofNat_toNat, BitVec.setWidth_eq, BitVec.setWidth_eq]

theorem sub_eq_ofInt (a b : Word) : a - b = BitVec.ofInt 16 (a.toInt - b.toInt) := by
  apply BitVec.eq_of_toInt_eq
  rw [BitVec.toInt_sub, BitVec.toInt_ofInt]

/-- Sign extension keeps the signed number. -/
theorem sext_eq_ofInt {n : Nat} (imm : BitVec n) : sext imm = BitVec.ofInt 16 imm.toInt := rfl

theorem add_sext_eq_ofInt {n : Nat} (a : Word) (imm : BitVec n) (short : n ≤ 16) :
    a + sext imm = BitVec.ofInt 16 (a.toNat + imm.toInt) := by
  rw [add_eq_ofInt, sext, BitVec.toInt_signExtend_of_le short]

/-- Sign extension repeats the highest bit. -/
theorem getLsbD_sext {n k : Nat} (imm : BitVec (n + 1)) (hk : k < 16) :
    (sext imm).getLsbD k = imm.getLsbD (min k n) := by
  rw [sext, BitVec.getLsbD_signExtend, decide_eq_true hk, Bool.true_and]
  split
  · rw [Nat.min_eq_left (by omega)]
  · rw [Nat.min_eq_right (by omega), BitVec.msb_eq_getLsbD_last, Nat.add_sub_cancel]

/-! ## Shifts as arithmetic (R6, R116) -/

theorem shift_eq_shiftNumber (op : ShiftOp) (a : Word) (n : Nat) : shift op a n = shiftNumber op a n := by
  cases op with
  | lsl =>
    apply BitVec.eq_of_toNat_eq
    rw [shift, shiftNumber, BitVec.toNat_shiftLeft, BitVec.toNat_ofNat, Nat.shiftLeft_eq]
  | lsr =>
    apply BitVec.eq_of_toNat_eq
    rw [shift, shiftNumber, BitVec.toNat_ushiftRight, BitVec.toNat_ofNat, Nat.shiftRight_eq_div_pow,
      Nat.mod_eq_of_lt (Nat.lt_of_le_of_lt (Nat.div_le_self _ _) a.isLt)]
  | asr => rw [shift, shiftNumber, BitVec.sshiftRight_eq, Int.shiftRight_eq_div_pow, Nat.cast_pow, Nat.cast_ofNat]

/-- By 16 and more, no bit stays but for the sign that `asr` repeats. -/
theorem shift_eq_shiftedOut (op : ShiftOp) (a : Word) {n : Nat} (large : 16 ≤ n) : shift op a n = shiftedOut op a := by
  cases op with
  | lsl => exact BitVec.shiftLeft_eq_zero large
  | lsr => exact BitVec.ushiftRight_eq_zero large
  | asr =>
    rw [shift, shiftedOut]
    cases sign : a.msb with
    | false =>
      rw [BitVec.sshiftRight_eq_of_msb_false sign, BitVec.ushiftRight_eq_zero large]
      rfl
    | true =>
      rw [BitVec.sshiftRight_eq_of_msb_true sign, BitVec.ushiftRight_eq_zero large]
      rfl

theorem low4_eq_mod (v : Word) : low4 v = v.toNat % 16 := by
  rw [low4, BitVec.extractLsb'_toNat, Nat.shiftRight_zero]

/-! ## A register write and a register shift, as the statements say them -/

theorem writeReg_eq_afterWrite (len : Word) (rd : Reg) (v : Word) (s : State) :
    writeReg len rd v s = .next (afterWrite s rd v len) := rfl

section Endings

variable {i : Instr} {s : State} {rd : Reg} {len a v w : Word} {op : ShiftOp}

/-- An instruction that ends in one register write completes with the value's number in the spec's arithmetic. -/
theorem exec_eq_afterWrite (meaning : exec i s = writeReg len rd v s) (value : v = w) :
    exec i s = .next (afterWrite s rd w len) := by
  rw [meaning, value, writeReg_eq_afterWrite]

theorem shiftByReg_of_lt (small : v.toNat < 16) :
    shiftByReg op len rd a v s = writeReg len rd (shift op a v.toNat) s :=
  if_pos small

theorem shiftByReg_of_low4 (large : ¬v.toNat < 16) (h : s.params.shiftAmount = .low4) :
    shiftByReg op len rd a v s = writeReg len rd (shift op a (low4 v)) s := by
  rw [shiftByReg, if_neg large, h]

theorem shiftByReg_of_full (large : ¬v.toNat < 16) (h : s.params.shiftAmount = .full) :
    shiftByReg op len rd a v s = writeReg len rd (shift op a v.toNat) s := by
  rw [shiftByReg, if_neg large, h]

theorem shiftByReg_of_free (large : ¬v.toNat < 16) (h : s.params.shiftAmount = .free) :
    shiftByReg op len rd a v s = writeReg len rd (Config.freeValue s.draws) s.draw := by
  rw [shiftByReg, if_neg large, h]

/-- The shared register shift is R116's, for every amount and each value the spec gives SHIFT_AMOUNT. -/
theorem shiftsByRegister_of_exec (meaning : exec i s = shiftByReg op len rd a v s) :
    ShiftsByRegister i op len rd a v s := by
  unfold ShiftsByRegister
  split
  next small => exact exec_eq_afterWrite (meaning.trans (shiftByReg_of_lt small)) (shift_eq_shiftNumber op a _)
  next large =>
    refine ⟨fun refuse => ?_, fun low => ?_, fun full => ?_⟩
    · exact meaning.trans (shiftByReg_eq_refused.2 ⟨Nat.not_lt.1 large, refuse, rfl⟩)
    · exact exec_eq_afterWrite (meaning.trans (shiftByReg_of_low4 large low))
        (by rw [low4_eq_mod, shift_eq_shiftNumber])
    · exact exec_eq_afterWrite (meaning.trans (shiftByReg_of_full large full))
        (shift_eq_shiftedOut op a (Nat.not_lt.1 large))

/-- The model's `free` (log 6): a large amount draws the value that is written. -/
theorem exec_of_freeShift (free : s.params.shiftAmount = .free) (large : 16 ≤ v.toNat)
    (meaning : exec i s = shiftByReg op len rd a v s) :
    ∃ x : Word, exec i s = .next { afterWrite s rd x len with draws := s.draws + 1 } :=
  ⟨Config.freeValue s.draws, meaning.trans (shiftByReg_of_free (Nat.not_lt.2 large) free)⟩

end Endings

end Sys2Proof.Machine
end

section
/-! PROOFS. The 24-bit integer instructions (40_int24.md R100 to R116): each as a shared ending, with its value in the
spec's arithmetic or bit by bit. -/

namespace Sys2Proof.Machine

/-! ## Register and register (R100 to R107) -/

/-- Settles O11: each of the three is the shared register shift. -/
theorem lslLsrAsrShiftByARegister : Obligations.LslLsrAsrShiftByARegister := by
  intro rd rs1 rs2 s
  refine ⟨RowR24.lsl.hasOpcode rd rs1 rs2, RowR24.lsr.hasOpcode rd rs1 rs2, RowR24.asr.hasOpcode rd rs1 rs2,
    ?lsl, ?lsr, ?asr, rfl⟩
  case lsl => exact shiftsByRegister_of_exec rfl
  case lsr => exact shiftsByRegister_of_exec rfl
  case asr => exact shiftsByRegister_of_exec rfl

/-- Settles O9: words add and subtract modulo 65536, whichever of their two readings is taken. -/
theorem addAndSubAreModulo65536 : Obligations.AddAndSubAreModulo65536 := by
  intro rd rs1 rs2 s
  refine ⟨RowR24.add.hasOpcode rd rs1 rs2, RowR24.sub.hasOpcode rd rs1 rs2, ?add, ?sub⟩
  case add => exact exec_eq_afterWrite rfl (add_eq_ofNat _ _)
  case sub => exact exec_eq_afterWrite rfl (sub_eq_ofInt _ _)

/-- Settles O10: the operations on words are those on their bits. -/
theorem andXorOrAreBitwise : Obligations.AndXorOrAreBitwise := by
  intro rd rs1 rs2 s
  refine ⟨⟨RowR24.and.hasOpcode rd rs1 rs2, s.reg rs1 &&& s.reg rs2, fun k _ => ?and, rfl⟩,
    ⟨RowR24.xor.hasOpcode rd rs1 rs2, s.reg rs1 ^^^ s.reg rs2, fun k _ => ?xor, rfl⟩,
    ⟨RowR24.or.hasOpcode rd rs1 rs2, s.reg rs1 ||| s.reg rs2, fun k _ => ?or, rfl⟩⟩
  case and => exact BitVec.getLsbD_and
  case xor => exact BitVec.getLsbD_xor
  case or => exact BitVec.getLsbD_or

/-- Settles O12: each of the six is the shared register shift, which draws a free value. -/
theorem freeShiftAmountRunsOn : Obligations.FreeShiftAmountRunsOn := by
  intro rd rs1 rs2 s free large
  simp only [List.forall_mem_cons]
  exact ⟨⟨exec_of_freeShift free large rfl, exec_of_freeShift free large rfl, exec_of_freeShift free large rfl,
      List.forall_mem_nil _⟩,
    ⟨exec_of_freeShift free large rfl, exec_of_freeShift free large rfl, exec_of_freeShift free large rfl,
      List.forall_mem_nil _⟩⟩

/-! ## Register and immediate (R108 to R115) -/

/-- `li` has no second register: its field holds x0's number (R55, R76). -/
theorem encode_li_fields (rd : Reg) (imm : BitVec 10) :
    ∃ w : BitVec 24, encode (.li rd imm) = bytes24 w ∧ w.extractLsb' 0 6 = 0b110101#6 ∧
      w.extractLsb' 12 4 = 0b0000#4 := by
  obtain ⟨w, word, low, -, at12, -⟩ := encodeI24_fields 0b110101#6 0 rd imm
  exact ⟨w, word, low, at12⟩

/-- What shares `li`'s opcode with another insn[15:12] is `sb` or reserved (R76). -/
theorem decode24_ne_li {p : Params} {w : BitVec 24} (low : w.extractLsb' 0 6 = 0b110101#6)
    (nonzero : w.extractLsb' 12 4 ≠ 0#4) (rd : Reg) (imm : BitVec 10) : decode24 p w ≠ some (.li rd imm) := by
  rw [decode24_of_liSb low, formatLiSb, if_neg nonzero]
  split <;> simp

/-- Settles O13: a sign-extended immediate is its signed number modulo 65536. -/
theorem addiAndLiUseASignedImmediate : Obligations.AddiAndLiUseASignedImmediate := by
  intro rd rs1 imm s
  obtain ⟨w, word, low, at12⟩ := encode_li_fields rd imm
  refine ⟨RowI24.addi.hasOpcode rd rs1 imm, hasOpcode_of_bytes24 word low, ?field, ?addi, ?li,
    fun p w low nonzero => decode24_ne_li low nonzero rd imm⟩
  case field => rw [word, insnOfBytes_bytes24, at12]
  case addi => exact exec_eq_afterWrite rfl (add_sext_eq_ofInt _ imm (by decide))
  case li => exact exec_eq_afterWrite rfl (sext_eq_ofInt imm)

/-- Settles O14: bit by bit, the sign-extended immediate repeats its bit 9. -/
theorem andiXoriOriSignExtend : Obligations.AndiXoriOriSignExtend := by
  intro rd rs1 imm s
  refine ⟨⟨RowI24.andi.hasOpcode rd rs1 imm, s.reg rs1 &&& sext imm, fun k hk => ?andi, rfl⟩,
    ⟨RowI24.xori.hasOpcode rd rs1 imm, s.reg rs1 ^^^ sext imm, fun k hk => ?xori, rfl⟩,
    ⟨RowI24.ori.hasOpcode rd rs1 imm, s.reg rs1 ||| sext imm, fun k hk => ?ori, rfl⟩⟩
  case andi => rw [BitVec.getLsbD_and, getLsbD_sext imm hk]
  case xori => rw [BitVec.getLsbD_xor, getLsbD_sext imm hk]
  case ori => rw [BitVec.getLsbD_or, getLsbD_sext imm hk]

/-- Settles O15: an encodable amount is below 16, and the shift is R6's for every amount. -/
theorem lsliLsriAsriShiftByAnImmediate : Obligations.LsliLsriAsriShiftByAnImmediate := by
  intro rd rs1 n s
  refine ⟨RowSH24.lsli.hasOpcode rd rs1 n, RowSH24.lsri.hasOpcode rd rs1 n, RowSH24.asri.hasOpcode rd rs1 n,
    ?lsli, ?lsri, ?asri⟩
  case lsli => exact exec_eq_afterWrite rfl (shift_eq_shiftNumber .lsl _ _)
  case lsri => exact exec_eq_afterWrite rfl (shift_eq_shiftNumber .lsr _ _)
  case asri => exact exec_eq_afterWrite rfl (shift_eq_shiftNumber .asr _ _)

end Sys2Proof.Machine
end

section
/-! PROOFS. The 24-bit conditional branches and the list-only jumps (41_branch24.md R120 to R128): the comparisons as
relations between numbers, the branch and the jump with their target in the spec's arithmetic. -/

namespace Sys2Proof

open Machine

/-! ## The opcode in an encoding (R74) -/

theorem RowB24.hasOpcode {op : BitVec 6} {mk} (row : RowB24 op mk) (at12 at8 : Reg) (imm : BitVec 10) :
    HasOpcode (mk at12 at8 imm) 6 op.toNat := by
  obtain ⟨w, word, low, -⟩ := encodeI24_fields op at12 at8 imm
  exact hasOpcode_of_bytes24 ((row.encode_eq at12 at8 imm).trans word) low

/-- J24's opcode is eight bits: bits 7:6 are 00 (R60, R77). -/
theorem hasOpcode_of_encodeJ24 {i : Instr} {op : BitVec 6} {imm : BitVec 16} (word : encode i = encodeJ24 op imm) :
    HasOpcode i 8 (0#2 ++ op).toNat := by
  obtain ⟨w, bytes, low, mid, -⟩ := encodeJ24_fields op imm
  have joined : w.extractLsb' 6 2 ++ w.extractLsb' 0 6 = w.extractLsb' 0 8 := extract_append w 0 2 6
  exact hasOpcode_of_bytes24 (word.trans bytes) (by rw [← joined, mid, low])

theorem encode_j (imm : BitVec 16) : encode (.j imm) = encodeJ24 0b000111#6 imm := rfl

theorem encode_jal (imm : BitVec 16) : encode (.jal imm) = encodeJ24 0b000111#6 imm := rfl

/-- J24's immediate stands in insn[23:8] (R60, R73). -/
theorem insnOfBytes_encodeJ24_imm (op : BitVec 6) (imm : BitVec 16) :
    (insnOfBytes (encodeJ24 op imm)).extractLsb' 8 16 = imm := by
  obtain ⟨w, bytes, -, -, field⟩ := encodeJ24_fields op imm
  rw [bytes, insnOfBytes_bytes24, ← simm16Field, field]

end Sys2Proof

namespace Sys2Proof.Machine

/-! ## The comparisons as relations between numbers (R121 to R126) -/

theorem condEq_eq_decide (a b : Word) : condEq a b = decide (a.toNat = b.toNat) := by
  rw [condEq, Bool.beq_eq_decide_eq, decide_eq_decide, BitVec.toNat_inj]

theorem condNe_eq_decide (a b : Word) : condNe a b = decide (a.toNat ≠ b.toNat) := by
  rw [condNe, decide_not, ← condEq_eq_decide, condEq]

theorem condLtSigned_eq_decide (a b : Word) : condLtSigned a b = decide (a.toInt < b.toInt) := rfl

theorem condLtUnsigned_eq_decide (a b : Word) : condLtUnsigned a b = decide (a.toNat < b.toNat) := rfl

theorem condLeSigned_eq_decide (a b : Word) : condLeSigned a b = decide (a.toInt ≤ b.toInt) := rfl

theorem condLeUnsigned_eq_decide (a b : Word) : condLeUnsigned a b = decide (a.toNat ≤ b.toNat) := rfl

/-! ## The branch (R120) -/

/-- An instruction that is a branch completes with the pc that R120 gives for its condition, and changes nothing
else. -/
theorem exec_eq_branchTarget {i : Instr} {s : State} {taken c : Bool} {imm : BitVec 10}
    (meaning : exec i s = branch taken imm s) (cond : taken = c) :
    exec i s = .next { s with
      pc := if c then BitVec.ofInt 16 (s.pc.toNat + imm.toInt) else BitVec.ofNat 16 (s.pc.toNat + 3) } := by
  have taken_pc : s.pc + sext imm = BitVec.ofInt 16 (s.pc.toNat + imm.toInt) := add_sext_eq_ofInt s.pc imm (by decide)
  have next_pc : s.pc + 3#16 = BitVec.ofNat 16 (s.pc.toNat + 3) := add_eq_ofNat s.pc 3#16
  rw [meaning, branch_eq, taken_pc, next_pc, cond, State.setPc]

/-- Settles O16: each of the six is the shared branch on its comparison. -/
theorem branchesCompareAndSetPc : Obligations.BranchesCompareAndSetPc := by
  intro rs1 rs2 imm s
  refine ⟨⟨RowB24.beq.hasOpcode rs1 rs2 imm, RowB24.bne.hasOpcode rs1 rs2 imm, RowB24.blt.hasOpcode rs1 rs2 imm,
    RowB24.bltu.hasOpcode rs1 rs2 imm, RowB24.ble.hasOpcode rs1 rs2 imm, RowB24.bleu.hasOpcode rs1 rs2 imm⟩,
    ?beq, ?bne, ?blt, ?bltu, ?ble, ?bleu⟩
  case beq => exact exec_eq_branchTarget rfl (condEq_eq_decide _ _)
  case bne => exact exec_eq_branchTarget rfl (condNe_eq_decide _ _)
  case blt => exact exec_eq_branchTarget rfl (condLtSigned_eq_decide _ _)
  case bltu => exact exec_eq_branchTarget rfl (condLtUnsigned_eq_decide _ _)
  case ble => exact exec_eq_branchTarget rfl (condLeSigned_eq_decide _ _)
  case bleu => exact exec_eq_branchTarget rfl (condLeUnsigned_eq_decide _ _)

/-! ## The list-only jumps (R127, R128) -/

theorem execJ_eq (imm : BitVec 16) (s : State) :
    execJ imm s = .next { s with pc := BitVec.ofNat 16 (s.pc.toNat + imm.toNat) } := by
  rw [execJ, jumpTo_eq, add_eq_ofNat, State.setPc]

/-- The link and the target are both counted from the old pc. -/
theorem execJal_eq (imm : BitVec 16) (s : State) :
    execJal imm s = .next { s with
      regs := s.regs.set 0 (BitVec.ofNat 16 (s.pc.toNat + (jalLinkOffset s.params.jalLink).toNat))
      pc := BitVec.ofNat 16 (s.pc.toNat + imm.toNat) } := by
  rw [execJal, linkAndJump_eq, add_eq_ofNat, add_eq_ofNat]
  rfl

/-- Settles O17: `j` and `jal` share one encoding, which no default admits, and their rules differ by the link. -/
theorem jAndJalJumpFromTheOldPc : Obligations.JAndJalJumpFromTheOldPc := by
  intro imm s
  refine ⟨hasOpcode_of_encodeJ24 (encode_j imm), hasOpcode_of_encodeJ24 (encode_jal imm),
    insnOfBytes_encodeJ24_imm _ imm, (encode_jal imm).trans (encode_j imm).symm, rfl, rfl, execJ_eq imm s, ?jal, rfl⟩
  case jal =>
    refine (execJal_eq imm s).trans ?_
    cases s.params.jalLink with
    | plus3 => rfl
    | plus4 => rfl

end Sys2Proof.Machine
end

section
/-! PROOFS. The 24-bit loads and stores where they complete (42_mem24.md R130 to R135): a load as the register write it
comes to, a store as the bytes it puts and what it leaves. -/

namespace Sys2Proof

open Machine

/-! ## The encoding of `sb` (R76) -/

/-- `sb` shares its opcode with `li`, and its base stands where `li` has 0000 (R59, R76). -/
theorem encode_sb_fields (data base : Reg) (imm : BitVec 10) :
    ∃ w : BitVec 24, encode (.sb data base imm) = bytes24 w ∧ w.extractLsb' 0 6 = 0b110101#6 ∧
      regField w 12 = base := by
  obtain ⟨w, word, low, -, at12, -⟩ := encodeI24_fields 0b110101#6 base data imm
  exact ⟨w, word, low, regField_of_extract at12⟩

end Sys2Proof

namespace Sys2Proof.Machine

/-! ## A loaded byte and a stored byte as numbers (R5, R133, R135) -/

/-- Zero extension keeps the unsigned number. -/
theorem zext_eq_ofNat {n : Nat} (v : BitVec n) : zext v = BitVec.ofNat 16 v.toNat :=
  (BitVec.ofNat_toNat 16 v).symm

/-- Bits 7:0 are the byte that stands first in a little-endian word. -/
theorem low8_eq_ofNat (v : Word) : v.extractLsb' 0 8 = BitVec.ofNat 8 v.toNat :=
  (congrArg Prod.fst (byteNumbers_eq .little v)).symm

section Accesses

variable {s : State} {ea w : Word}

/-! ## A load that completes (R34) -/

theorem loadWord_of_readable {b0 b1 : Byte} (len : Word) (rd : Reg) (goes : WordGoesTo s ea w)
    (first : Readable s w b0) (second : Readable s (w + 1) b1) :
    loadWord len rd ea s = writeReg len rd (joinBytes s.params.dataEndian b0 b1) s := by
  have read : s.readWord ea = .next (joinBytes s.params.dataEndian b0 b1) :=
    readWord_eq_next.2 ⟨w, b0, b1, wordAddr_of_wordGoesTo goes, readByte_eq_next_iff_readable.2 first,
      readByte_eq_next_iff_readable.2 second, rfl⟩
  rw [loadWord, read, andThen_next]

theorem loadByte_of_readable {b : Byte} (len : Word) (ext : Byte → Word) (rd : Reg) (readable : Readable s ea b) :
    loadByte len ext rd ea s = writeReg len rd (ext b) s := by
  rw [loadByte, readByte_eq_next_iff_readable.2 readable, andThen_next]

/-! ## A store that completes (R35) -/

theorem storeWord_of_accessible (len v : Word) (goes : WordGoesTo s ea w) (first : Accessible s w)
    (second : Accessible s (w + 1)) : storeWord len ea v s = .next ((s.putWord w v).advance len) :=
  storeWord_eq_next.2 ⟨w, wordAddr_of_wordGoesTo goes, checkByte_eq_next_iff_accessible.2 first,
    checkByte_eq_next_iff_accessible.2 second, rfl⟩

theorem storeByte_of_accessible (len : Word) (b : Byte) (accessible : Accessible s ea) :
    storeByte len ea b s = .next ((s.putByte ea.toNat b).advance len) :=
  storeByte_eq_next.2 ⟨checkByte_eq_next_iff_accessible.2 accessible, rfl⟩

theorem dataByte_putWord_first (s : State) (w v : Word) :
    (s.putWord w v).dataByte w.toNat = some (byteNumbers s.params.dataEndian v).1 := by
  rw [dataByte_putWord, if_neg (toNat_ne_toNat_add_one w).symm, if_pos rfl, byteNumbers_eq]

theorem dataByte_putWord_second (s : State) (w v : Word) :
    (s.putWord w v).dataByte (w + 1).toNat = some (byteNumbers s.params.dataEndian v).2 := by
  rw [byteNumbers_eq]
  exact (dataByte_putWord s w v _).trans (if_pos rfl)

/-- A word store of any length, in the spec's words: both bytes of the value in the machine's byte order, and nothing
else but pc. -/
theorem storeWord_stores (len v : Word) (goes : WordGoesTo s ea w) (first : Accessible s w)
    (second : Accessible s (w + 1)) :
    ∃ t, storeWord len ea v s = .next t ∧
      t.dataByte w.toNat = some (byteNumbers s.params.dataEndian v).1 ∧
      t.dataByte (w + 1).toNat = some (byteNumbers s.params.dataEndian v).2 ∧
      (∀ a : Nat, a ≠ w.toNat → a ≠ (w + 1).toNat → SameByte s t a) ∧
      t.regs = s.regs ∧ t.pc.toNat = (s.pc.toNat + len.toNat) % 65536 ∧ SameLaunch s t ∧ t.draws = s.draws := by
  refine ⟨_, storeWord_of_accessible len v goes first second, ?first, ?second,
    fun a notFirst notSecond => ?others, rfl, BitVec.toNat_add _ _, ⟨rfl, rfl, rfl⟩, rfl⟩
  case first => rw [State.dataByte_advance, dataByte_putWord_first]
  case second => rw [State.dataByte_advance, dataByte_putWord_second]
  case others => exact putWord_read_other s w v notFirst notSecond

/-- A byte store of any length: the byte at its address, and nothing else but pc. -/
theorem storeByte_stores (len : Word) (b : Byte) (accessible : Accessible s ea) :
    ∃ t, storeByte len ea b s = .next t ∧
      t.dataByte ea.toNat = some b ∧
      (∀ a : Nat, a ≠ ea.toNat → SameByte s t a) ∧
      t.regs = s.regs ∧ t.pc.toNat = (s.pc.toNat + len.toNat) % 65536 ∧ SameLaunch s t ∧ t.draws = s.draws := by
  refine ⟨_, storeByte_of_accessible len b accessible, ?byte, fun a other => ?others, rfl, BitVec.toNat_add _ _,
    ⟨rfl, rfl, rfl⟩, rfl⟩
  case byte => rw [State.dataByte_advance, dataByte_putByte, if_pos rfl]
  case others => exact putByte_read_other s b other

end Accesses

/-! ## The statements -/

/-- Settles O22: `sw` is the shared word store of three bytes' length. -/
theorem swStoresTheWordAtItsAddress : Obligations.SwStoresTheWordAtItsAddress := by
  intro data base imm s w
  refine ⟨RowI24.sw.hasOpcode data base imm, fun goes first second => ?_⟩
  rw [exec_sw]
  exact storeWord_stores 3#16 (s.reg data) goes first second

/-- Settles O23: `sb` is the shared byte store of bits 7:0, and its base field is 0000 for x0 alone. -/
theorem sbStoresOneByte : Obligations.SbStoresOneByte := by
  intro data base imm s
  obtain ⟨w, word, low, at12⟩ := encode_sb_fields data base imm
  refine ⟨hasOpcode_of_bytes24 word low, fun nonzero => ?field, fun accessible => ?stores⟩
  case field =>
    rw [word, insnOfBytes_bytes24]
    exact mt regField_eq_zero_iff.2 (at12 ▸ nonzero)
  case stores =>
    rw [exec_sb, low8_eq_ofNat]
    exact storeByte_stores 3#16 _ accessible

/-- Settles O20: the two bytes that are read are joined to the word that is written. -/
theorem lwLoadsTheWordAtItsAddress : Obligations.LwLoadsTheWordAtItsAddress := by
  intro data base imm s w b0 b1
  refine ⟨RowI24.lw.hasOpcode data base imm, fun goes first second => ?_⟩
  exact exec_eq_afterWrite ((exec_lw data base imm s).trans (loadWord_of_readable 3#16 data goes first second))
    (wordNumber_eq _ b0 b1).symm

/-- Settles O21: `lb` and `lbu` are one byte load with two extensions. -/
theorem lbAndLbuLoadAByte : Obligations.LbAndLbuLoadAByte := by
  intro data base imm s b
  refine ⟨RowI24.lb.hasOpcode data base imm, RowI24.lbu.hasOpcode data base imm, fun readable => ⟨?lb, ?lbu⟩⟩
  case lb =>
    exact exec_eq_afterWrite ((exec_lb data base imm s).trans (loadByte_of_readable 3#16 sext data readable))
      (sext_eq_ofInt b)
  case lbu =>
    exact exec_eq_afterWrite ((exec_lbu data base imm s).trans (loadByte_of_readable 3#16 zext data readable))
      (zext_eq_ofNat b)

end Sys2Proof.Machine
end

section
/-! PROOFS. What the statements about 16-bit instructions share: the opcode in an encoding, and the registers after a
register write. -/

namespace Sys2Proof

open Machine

/-! ## The opcode in a 16-bit encoding (R75) -/

theorem insnOfBytes_bytes16 (w : BitVec 16) : insnOfBytes (bytes16 w) = w.setWidth 24 := by
  rw [bytes16, insnOfBytes_two, word16_bytes]

theorem hasOpcode_of_bytes16 {i : Instr} {w : BitVec 16} {k : Nat} {op : BitVec k} (word : encode i = bytes16 w)
    (low : w.extractLsb' 0 k = op) : HasOpcode i k op.toNat := by
  rw [HasOpcode, word, insnOfBytes_bytes16, BitVec.toNat_setWidth_of_le (by decide), ← low,
    BitVec.extractLsb'_toNat, Nat.shiftRight_zero]

/-- The formats whose opcode is eight bits wide, below two fields of four (R61, R63, R64). -/
theorem hasOpcode_of_opcode8 {i : Instr} {op : BitVec 8} {at12 at8 : BitVec 4}
    (word : encode i = bytes16 ((at12 ++ at8) ++ op)) : HasOpcode i 8 op.toNat := by
  obtain ⟨w, bytes, low8, -⟩ := encodeR16_fields op at12 at8
  exact hasOpcode_of_bytes16 (word.trans bytes) low8

section Rows

variable {op : BitVec 6}

theorem RowR16.hasOpcode {mk} (row : RowR16 op mk) (rd rs : Reg) : HasOpcode (mk rd rs) 8 (2#2 ++ op).toNat :=
  hasOpcode_of_opcode8 (row.encode_eq rd rs)

theorem RowSH16.hasOpcode {mk} (row : RowSH16 op mk) (rd : Reg) (uimm4 : BitVec 4) :
    HasOpcode (mk rd uimm4) 8 (0#2 ++ op).toNat :=
  hasOpcode_of_opcode8 (row.encode_eq rd uimm4)

theorem RowI16.hasOpcode {mk} (row : RowI16 op mk) (rd : Reg) (imm : BitVec 6) : HasOpcode (mk rd imm) 6 op.toNat := by
  obtain ⟨w, word, low, -⟩ := encodeI16_fields op (imm.extractLsb' 0 4) (regBits rd) (imm.extractLsb' 4 2)
  exact hasOpcode_of_bytes16 ((row.encode_eq rd imm).trans word) low

end Rows

end Sys2Proof

namespace Sys2Proof.Machine

/-! ## Registers after a register write (R10, R11) -/

@[simp] theorem afterWrite_reg_self (s : State) (rd : Reg) (v len : Word) : (afterWrite s rd v len).reg rd = v :=
  s.reg_setReg_self rd v

theorem afterWrite_reg_other (s : State) {rd r : Reg} (v len : Word) (other : r ≠ rd) :
    (afterWrite s rd v len).reg r = s.reg r :=
  s.reg_setReg_other v other

@[simp] theorem afterWrite_pc (s : State) (rd : Reg) (v len : Word) : (afterWrite s rd v len).pc = s.pc + len := rfl

end Sys2Proof.Machine
end

section
/-! PROOFS. The 16-bit integer instructions (43_int16.md R140 to R155): each as a shared ending, with its value in the
spec's arithmetic or bit by bit; and R152's recipe for a constant. -/

namespace Sys2Proof.Machine

/-! ## Register and register (R140 to R148) -/

/-- Settles O26: each of the three is the shared register shift of `rd` itself. -/
theorem lsl2Lsr2Asr2ShiftByARegister : Obligations.Lsl2Lsr2Asr2ShiftByARegister := by
  intro rd rs s
  refine ⟨RowR16.lsl2.hasOpcode rd rs, RowR16.lsr2.hasOpcode rd rs, RowR16.asr2.hasOpcode rd rs, ?lsl2, ?lsr2, ?asr2⟩
  case lsl2 => exact shiftsByRegister_of_exec rfl
  case lsr2 => exact shiftsByRegister_of_exec rfl
  case asr2 => exact shiftsByRegister_of_exec rfl

/-- Settles O24: `add2` and `mov` have opcodes beside `nop`'s (R61), and the values are those of `add` and `sub`. -/
theorem add2Sub2AndMov : Obligations.Add2Sub2AndMov := by
  intro rd rs s
  refine ⟨hasOpcode_of_opcode8 (encode_add2 rd rs), RowR16.sub2.hasOpcode rd rs,
    hasOpcode_of_opcode8 (encode_mov rd rs), ?add2, ?sub2, ?mov⟩
  case add2 => exact exec_eq_afterWrite rfl (add_eq_ofNat _ _)
  case sub2 => exact exec_eq_afterWrite rfl (sub_eq_ofInt _ _)
  case mov => exact exec_eq_afterWrite rfl rfl

/-- Settles O25: the operations on words are those on their bits. -/
theorem and2Xor2Or2AreBitwise : Obligations.And2Xor2Or2AreBitwise := by
  intro rd rs s
  refine ⟨⟨RowR16.and2.hasOpcode rd rs, s.reg rd &&& s.reg rs, fun k _ => ?and2, rfl⟩,
    ⟨RowR16.xor2.hasOpcode rd rs, s.reg rd ^^^ s.reg rs, fun k _ => ?xor2, rfl⟩,
    ⟨RowR16.or2.hasOpcode rd rs, s.reg rd ||| s.reg rs, fun k _ => ?or2, rfl⟩⟩
  case and2 => exact BitVec.getLsbD_and
  case xor2 => exact BitVec.getLsbD_xor
  case or2 => exact BitVec.getLsbD_or

/-! ## Register and immediate (R149 to R151, R153 to R155) -/

/-- Settles O27: a sign-extended immediate is its signed number, and repeats its bit 5. -/
theorem addi2Andi2AndLsi : Obligations.Addi2Andi2AndLsi := by
  intro rd imm s
  refine ⟨RowI16.addi2.hasOpcode rd imm, RowI16.andi2.hasOpcode rd imm, RowI16.lsi.hasOpcode rd imm, ?addi2,
    ⟨s.reg rd &&& sext imm, fun k hk => ?andi2, rfl⟩, ?lsi⟩
  case addi2 => exact exec_eq_afterWrite rfl (add_sext_eq_ofInt _ imm (by decide))
  case andi2 => rw [BitVec.getLsbD_and, getLsbD_sext imm hk]
  case lsi => exact exec_eq_afterWrite rfl (sext_eq_ofInt imm)

/-- Settles O28: an encodable amount is below 16, and the shift is R6's for every amount. -/
theorem lsli2Lsri2Asri2ShiftByAnImmediate : Obligations.Lsli2Lsri2Asri2ShiftByAnImmediate := by
  intro rd n s
  refine ⟨RowSH16.lsli2.hasOpcode rd n, RowSH16.lsri2.hasOpcode rd n, RowSH16.asri2.hasOpcode rd n,
    ?lsli2, ?lsri2, ?asri2⟩
  case lsli2 => exact exec_eq_afterWrite rfl (shift_eq_shiftNumber .lsl _ _)
  case lsri2 => exact exec_eq_afterWrite rfl (shift_eq_shiftNumber .lsr _ _)
  case asri2 => exact exec_eq_afterWrite rfl (shift_eq_shiftNumber .asr _ _)

/-! ## `lui`, its immediate signed or unsigned (R152) -/

/-- The two readings of an immediate differ by a multiple of 64, and 64 * 1024 is 65536. -/
theorem ofInt_mul1024_eq_ofNat (imm : BitVec 6) :
    BitVec.ofInt 16 (imm.toInt * 1024) = BitVec.ofNat 16 (imm.toNat * 1024) := by
  rw [← BitVec.ofInt_natCast]
  apply BitVec.eq_of_toNat_eq
  rw [BitVec.toNat_ofInt, BitVec.toNat_ofInt, BitVec.toInt_eq_toNat_cond]
  split <;> omega

theorem shift_lsl_ten_sext_eq_ofInt (imm : BitVec 6) :
    shift .lsl (sext imm) 10 = BitVec.ofInt 16 (imm.toInt * 1024) := by
  rw [shift, BitVec.shiftLeft_eq_mul_twoPow, sext_eq_ofInt, BitVec.ofInt_mul]
  rfl

theorem exec_lui_signed (rd : Reg) (imm : BitVec 6) (s : State) :
    exec (.lui rd imm) s = .next (afterWrite s rd (BitVec.ofInt 16 (imm.toInt * 1024)) 2) :=
  exec_eq_afterWrite rfl (shift_lsl_ten_sext_eq_ofInt imm)

theorem exec_lui_unsigned (rd : Reg) (imm : BitVec 6) (s : State) :
    exec (.lui rd imm) s = .next (afterWrite s rd (BitVec.ofNat 16 (imm.toNat * 1024)) 2) :=
  exec_eq_afterWrite rfl ((shift_lsl_ten_sext_eq_ofInt imm).trans (ofInt_mul1024_eq_ofNat imm))

/-! ## Building a constant with `lui` and `addi` (R152) -/

/-- R152's immediate of the `addi`: bits 9:0 of the constant. -/
def constantLo (k : Word) : BitVec 10 := k.extractLsb' 0 10

/-- R152's immediate of the `lui`: what is left after the sign-extended low part, in units of 1024. -/
def constantHi (k : Word) : BitVec 6 := BitVec.ofInt 6 ((k.toNat - (constantLo k).toInt) % 65536 / 1024)

/-- Read as a signed number, the low part is still the constant modulo 1024. -/
theorem dvd_sub_constantLo (k : Word) : (1024 : Int) ∣ k.toNat - (constantLo k).toInt := by
  have low : (constantLo k).toNat = k.toNat % 1024 := by
    rw [constantLo, BitVec.extractLsb'_toNat, Nat.shiftRight_zero]
  rw [BitVec.toInt_eq_toNat_cond, low]
  split <;> omega

/-- The six bits hold the whole high part, and the division by 1024 loses nothing. -/
theorem constantHi_mul1024 (k : Word) :
    ((constantHi k).toNat * 1024 : Int) = (k.toNat - (constantLo k).toInt) % 65536 := by
  have whole := dvd_sub_constantLo k
  rw [constantHi, BitVec.toNat_ofInt]
  omega

/-- The `addi` puts back what the high part left out, modulo 65536. -/
theorem constantHi_add_constantLo (k : Word) :
    BitVec.ofInt 16 ((BitVec.ofNat 16 ((constantHi k).toNat * 1024)).toNat + (constantLo k).toInt) = k := by
  have high := constantHi_mul1024 k
  apply BitVec.eq_of_toNat_eq
  rw [BitVec.toNat_ofInt, BitVec.toNat_ofNat]
  have bound := k.isLt
  omega

/-- Settles O29: `lui` gives the high part of the constant and `addi`, which reads it back, adds the low part. -/
theorem luiThenAddiBuildsAnyConstant : Obligations.LuiThenAddiBuildsAnyConstant := by
  intro rd imm k s
  refine ⟨RowI16.lui.hasOpcode rd imm, exec_lui_signed rd imm s, exec_lui_unsigned rd imm s, _, _,
    exec_lui_unsigned rd (constantHi k) s, exec_eq_afterWrite rfl (add_sext_eq_ofInt _ _ (by decide)),
    ?constant, fun r other => ?others, ?pc⟩
  case constant =>
    rw [afterWrite_reg_self, afterWrite_reg_self]
    exact constantHi_add_constantLo k
  case others => rw [afterWrite_reg_other _ _ _ other, afterWrite_reg_other _ _ _ other]
  case pc =>
    rw [afterWrite_pc, afterWrite_pc, BitVec.add_assoc]
    exact BitVec.toNat_add s.pc _

end Sys2Proof.Machine
end

section
/-! PROOFS. The 16-bit unconditional jumps (44_jump16.md R160 to R164): each with its target and its link in the spec's
arithmetic; and a call followed by its return. -/

namespace Sys2Proof

open Machine

/-! ## The opcode in an encoding (R64, R65, R75) -/

theorem RowJR16.hasOpcode {op : BitVec 6} {mk} (row : RowJR16 op mk) (rs : Reg) :
    HasOpcode (mk rs) 8 (0#2 ++ op).toNat :=
  hasOpcode_of_opcode8 (row.encode_eq rs)

theorem RowJS16.hasOpcode {op : BitVec 5} {mk} (row : RowJS16 op mk) (imm : BitVec 11) :
    HasOpcode (mk imm) 5 op.toNat := by
  obtain ⟨w, word, low, -⟩ := encodeJS16_fields op imm
  exact hasOpcode_of_bytes16 ((row.encode_eq imm).trans word) low

end Sys2Proof

namespace Sys2Proof.Machine

section Endings

variable {i : Instr} {s t : State} {link target : Word}

/-! ## What a call leaves (R12, R164) -/

/-- The two call instructions of 44_jump16.md are linking jumps with the address of the instruction after them. -/
theorem exec_call_eq_linkAndJump (call : (∃ imm, i = .jsal imm) ∨ ∃ rs, i = .jalr rs) (s : State) :
    ∃ target, exec i s = linkAndJump (s.pc + 2#16) target s := by
  obtain ⟨imm, rfl⟩ | ⟨rs, rfl⟩ := call
  · exact ⟨s.pc + sext imm, rfl⟩
  · exact ⟨s.reg rs, rfl⟩

theorem reg_ra_of_linkAndJump (h : linkAndJump link target s = .next t) : t.reg Reg.ra = link := by
  cases h
  rw [State.reg_setPc, State.reg_setReg_self]

theorem reg_other_of_linkAndJump (h : linkAndJump link target s = .next t) {r : Reg} (other : r ≠ Reg.ra) :
    t.reg r = s.reg r := by
  cases h
  rw [State.reg_setPc, State.reg_setReg_other _ _ other]

/-! ## Each jump's next state (R160 to R163) -/

/-- A jump that writes no register changes pc alone. -/
theorem exec_eq_of_jumpTo {pc : Word} (meaning : exec i s = jumpTo target s) (value : target = pc) :
    exec i s = .next { s with pc := pc } := by
  rw [meaning, value, jumpTo_eq, State.setPc]

/-- A 16-bit linking jump puts `pc + 2` in x0 and changes nothing else but pc. -/
theorem exec_eq_of_linkAndJump {pc : Word} (meaning : exec i s = linkAndJump (s.pc + 2#16) target s)
    (value : target = pc) :
    exec i s = .next { s with regs := s.regs.set 0 (BitVec.ofNat 16 (s.pc.toNat + 2)), pc := pc } := by
  rw [meaning, value, linkAndJump_eq, add_eq_ofNat]
  rfl

end Endings

/-! ## The statements -/

/-- Settles O19: the call leaves the return address in `ra` and every other register alone; `jr` only reads them. -/
theorem returnComesBackAfterTheCall : Obligations.ReturnComesBackAfterTheCall := by
  intro i s t u call h same
  obtain ⟨target, meaning⟩ := exec_call_eq_linkAndJump call s
  have linked : linkAndJump (s.pc + 2#16) target s = .next t := meaning.symm.trans h
  refine ⟨u.setPc (u.reg Reg.ra), rfl, ?pc, fun r other => ?others⟩
  case pc =>
    rw [State.setPc_pc, same, reg_ra_of_linkAndJump linked]
    exact BitVec.toNat_add s.pc _
  case others => rw [State.reg_setPc, same, reg_other_of_linkAndJump linked other]

/-- Settles O18: two jumps and two linking jumps, to a register's value or to an offset from the old pc. -/
theorem sixteenBitJumpsSetPcAndLink : Obligations.SixteenBitJumpsSetPcAndLink := by
  intro rs imm s
  have offset : s.pc + sext imm = BitVec.ofInt 16 (s.pc.toNat + imm.toInt) := add_sext_eq_ofInt s.pc imm (by decide)
  refine ⟨RowJR16.jalr.hasOpcode rs, RowJR16.jr.hasOpcode rs, RowJS16.js.hasOpcode imm, RowJS16.jsal.hasOpcode imm,
    ?jalr, ?jr, ?js, ?jsal⟩
  case jalr => exact exec_eq_of_linkAndJump rfl rfl
  case jr => exact exec_eq_of_jumpTo rfl rfl
  case js => exact exec_eq_of_jumpTo rfl offset
  case jsal => exact exec_eq_of_linkAndJump rfl offset

end Sys2Proof.Machine
end

section
/-! PROOFS. The 16-bit stack access (45_mem16.md R170 to R172): `lwsp` and `swsp` as the shared word load and word store
at the old x1, and a push followed by a pop. -/

namespace Sys2Proof

open Machine

/-! ## The opcode in an encoding (R66, R75) -/

theorem RowSP16.hasOpcode {op : BitVec 6} {mk} (row : RowSP16 op mk) (r : Reg) (imm : BitVec 7) :
    HasOpcode (mk r imm) 6 op.toNat := by
  obtain ⟨w, word, low, -⟩ := encodeI16_fields op (imm.extractLsb' 1 4) (regBits r) (imm.extractLsb' 5 2)
  exact hasOpcode_of_bytes16 ((row.encode_eq r imm).trans word) low

end Sys2Proof

namespace Sys2Proof.Machine

/-! ## One stack access (R170, R171) -/

/-- Settles O31: `swsp` is the shared word store of two bytes' length. -/
theorem swspStoresToTheStack : Obligations.SwspStoresToTheStack := by
  intro rs imm s w
  refine ⟨RowSP16.swsp.hasOpcode rs imm, fun goes first second => ?_⟩
  rw [exec_swsp]
  exact storeWord_stores 2#16 (s.reg rs) goes first second

/-- Settles O30: the address comes from the state before the load, so `rd` may be x1 itself. -/
theorem lwspLoadsFromTheStack : Obligations.LwspLoadsFromTheStack := by
  intro rd imm s w b0 b1
  refine ⟨RowSP16.lwsp.hasOpcode rd imm, fun goes first second => ?_⟩
  exact exec_eq_afterWrite ((exec_lwsp rd imm s).trans (loadWord_of_readable 2#16 rd goes first second))
    (wordNumber_eq _ b0 b1).symm

/-! ## A push and a pop (R172) -/

theorem eaSpNumber_zero (s : State) : eaSpNumber s 0 = s.reg Reg.sp := BitVec.ofNat_toNat 16 _

/-- `addi2 sp, -2` makes room for a word. -/
theorem exec_addi2_sp_neg_two (s : State) :
    exec (.addi2 1 (-2)) s = .next (afterWrite s 1 (s.reg 1 - 2) 2) := by
  have immediate : sext (-2 : BitVec 6) = -2 := by decide
  refine exec_eq_afterWrite rfl ?_
  rw [immediate, BitVec.sub_eq_add_neg]

/-- `addi2 sp, 2` gives the room back. -/
theorem exec_addi2_sp_two (s : State) : exec (.addi2 1 2) s = .next (afterWrite s 1 (s.reg 1 + 2) 2) :=
  exec_eq_afterWrite rfl rfl

/-- A store writes no register, so sp is still the base it stored through. -/
theorem reg_of_exec_swsp {rs : Reg} {imm : BitVec 7} {s t : State} (stored : exec (.swsp rs imm) s = .next t)
    (r : Reg) : t.reg r = s.reg r :=
  onlyDestinationsChange _ s t stored r List.not_mem_nil

/-- A word loaded at the offset it was just stored at is the word stored (R41), whatever the alignment. -/
theorem exec_lwsp_of_exec_swsp {rs : Reg} {imm : BitVec 7} {s t : State} (stored : exec (.swsp rs imm) s = .next t)
    (rd : Reg) : exec (.lwsp rd imm) t = .next (afterWrite t rd (s.reg rs) 2) := by
  have sameAddress : eaSpNumber t imm = eaSpNumber s imm := by
    rw [eaSpNumber, eaSpNumber, reg_of_exec_swsp stored]
  rw [exec_swsp] at stored
  rw [exec_lwsp, sameAddress]
  obtain ⟨w, goes, first, second, rfl⟩ := storeWord_eq_next.1 stored
  refine loadWord_eq_next.2 ⟨s.reg rs, ?_, rfl⟩
  rw [State.readWord_advance, readWord_putWord _ goes first second]

/-- With sp lowered by 2, both bytes below the old sp accessible, the store of a push completes. -/
theorem exec_swsp_of_sp_lowered {s : State} (rs : Reg) (even : (s.reg 1).toNat % 2 = 0)
    (first : Accessible s (s.reg 1 - 2)) (second : Accessible s (s.reg 1 - 1)) :
    ∃ t, exec (.swsp rs 0) (afterWrite s 1 (s.reg 1 - 2) 2) = .next t := by
  have address : eaSpNumber (afterWrite s 1 (s.reg 1 - 2) 2) 0 = s.reg 1 - 2 :=
    (eaSpNumber_zero _).trans (afterWrite_reg_self s 1 _ 2)
  have next : s.reg 1 - 1 = s.reg 1 - 2 + 1 := by bv_omega
  obtain ⟨-, stores⟩ := swspStoresToTheStack rs 0 (afterWrite s 1 (s.reg 1 - 2) 2) (s.reg 1 - 2)
  obtain ⟨t, stored, -⟩ := stores (.inl ⟨by rw [address]; bv_omega, address.symm⟩) first (next ▸ second)
  exact ⟨t, stored⟩

/-- A pop's two register writes: sp comes back from 2 below, and only `rd` holds something new. -/
theorem reg_of_pop {s t : State} {rd r : Reg} (v : Word) (lowered : t.reg 1 = s.reg 1 - 2)
    (kept : ∀ q, q ≠ 1 → t.reg q = s.reg q) (notRd : r ≠ rd) :
    (afterWrite (afterWrite t rd v 2) 1 ((afterWrite t rd v 2).reg 1 + 2) 2).reg r = s.reg r := by
  obtain rfl | notSp := eq_or_ne r 1
  · rw [afterWrite_reg_self, afterWrite_reg_other _ _ _ notRd, lowered, BitVec.sub_add_cancel]
  · rw [afterWrite_reg_other _ _ _ notSp, afterWrite_reg_other _ _ _ notRd, kept r notSp]

/-- Settles O33: the push stores below the old sp, the pop loads from there, and the two changes of sp cancel. -/
theorem popGivesBackWhatWasPushed : Obligations.PopGivesBackWhatWasPushed := by
  intro rs rd s rsNotSp rdNotSp even first second
  obtain ⟨s2, stored⟩ := exec_swsp_of_sp_lowered rs even first second
  have lowered : s2.reg 1 = s.reg 1 - 2 := by rw [reg_of_exec_swsp stored, afterWrite_reg_self]
  have kept (r : Reg) (notSp : r ≠ 1) : s2.reg r = s.reg r := by
    rw [reg_of_exec_swsp stored, afterWrite_reg_other s _ _ notSp]
  refine ⟨_, s2, _, _, exec_addi2_sp_neg_two s, stored, exec_lwsp_of_exec_swsp stored rd, exec_addi2_sp_two _,
    ?popped, reg_of_pop _ lowered kept rdNotSp.symm, fun r notRd => reg_of_pop _ lowered kept notRd⟩
  case popped => rw [afterWrite_reg_other _ _ _ rdNotSp, afterWrite_reg_self, afterWrite_reg_other _ _ _ rsNotSp]

end Sys2Proof.Machine
end

section
/-! PROOFS. `nop` (46_other.md R175): its word, the reserved words that share its low byte, and its effect. -/

namespace Sys2Proof.Machine

/-! ## The reserved words beside `nop` (R67, R80) -/

/-- A field inside a low byte that is zero is zero. -/
theorem extract_of_lowByte_zero {n : Nat} {w : BitVec n} (low : w.extractLsb' 0 8 = 0#8) (k l : Nat)
    (inside : k + l ≤ 8 := by decide) : w.extractLsb' k l = 0#l := by
  have part : (w.extractLsb' 0 8).extractLsb' k l = w.extractLsb' k l := by
    rw [extract_extract w inside, Nat.zero_add]
  rw [← part, low, BitVec.extractLsb'_zero]

/-- R67: with insn[7:0] = 0x00, the high byte too is fixed (R80's case 10). -/
theorem decode16_eq_none_of_lowByte_zero {w : BitVec 16} (low : w.extractLsb' 0 8 = 0#8)
    (high : w.extractLsb' 8 8 ≠ 0#8) : decode16 w = none := by
  have nonzero : w ≠ 0#16 := by
    rintro rfl
    exact high rfl
  rw [decode16_of_zero16 (extract_of_lowByte_zero low 0 6), formatZero16_eq_none_iff]
  exact ⟨nonzero, .inl (extract_of_lowByte_zero low 6 2)⟩

/-! ## The effect (R175) -/

/-- The advance of pc is `nop`'s whole effect. -/
theorem exec_nop (s : State) : exec .nop s = .next (s.advance 2#16) := rfl

theorem State.advance_eq_ofNat (s : State) (len : Word) :
    s.advance len = { s with pc := BitVec.ofNat 16 (s.pc.toNat + len.toNat) } := by
  rw [State.advance, add_eq_ofNat, State.setPc]

/-- Settles O32: the decoder's arm for insn[5:0] = 000000 reads the word 0 as `nop` and refuses any other word whose
insn[7:6] is 00; executing `nop` is the advance by its two bytes. -/
theorem nopChangesPcAlone : Obligations.NopChangesPcAlone := by
  refine ⟨rfl, ?word, fun w low high => ?reserved, fun s => ?effect⟩
  case word => rw [decode16_of_zero16 rfl, formatZero16, if_pos rfl]
  case reserved => exact decode16_eq_none_of_lowByte_zero low high
  case effect => exact (exec_nop s).trans (congrArg _ (s.advance_eq_ofNat 2#16))

end Sys2Proof.Machine
end

section
/-! PROOFS. How an instruction and a step can stop, said once for all 52 instructions (60_exceptions.md R180 to R183),
and the statements about stops that follow from it. -/

namespace Sys2Proof.Machine

/-! ## How a data access stops (R36, R183 step 7) -/

/-- The ways the access `d` can stop: before any byte, at an odd word address (R36), or at the first of its bytes that
does not pass. -/
inductive DataAccess.Stop (d : DataAccess) (s : State) : Res State → Prop
  | misaligned (word : d.isWord = true) (odd : d.ea.toNat % 2 = 1) (fault : s.params.misalignedWord = .fault) :
      d.Stop s (.refused (.misalignedFault d.ea))
  | atByte {x : Res State} (a : Word) (byte : a.toNat ∈ d.bytes s) (stops : d.StopsAt s a x) : d.Stop s x

/-- A byte that does not pass its checks stops in one of two ways. -/
theorem DataAccess.StopsAt.result_cases {d : DataAccess} {s : State} {a : Word} {x : Res State} (h : d.StopsAt s a x) :
    x = .fault (.accessFault a) ∨ x = .refused (.refusedCodeAccess a) := by
  obtain ⟨-, rfl⟩ | ⟨-, -, -, rfl⟩ | ⟨-, -, -, rfl⟩ := h
  · exact .inl rfl
  · exact .inr rfl
  · exact .inl rfl

/-- The checks of a byte either pass or stop: an accessible byte at most for want of a value, any other as undeclared or
as code. -/
theorem DataAccess.passes_or_stopsAt (d : DataAccess) (s : State) (a : Word) :
    d.Passes s a ∨ ∃ x, d.StopsAt s a x := by
  by_cases accessible : Accessible s a
  · by_cases empty : d.isLoad = true ∧ s.dataByte a.toNat = none
    · exact .inr ⟨_, .inr (.inr ⟨empty.1, accessible, empty.2, rfl⟩)⟩
    · exact .inl ⟨accessible, fun load none => empty ⟨load, none⟩⟩
  · cases declared : s.declared a.toNat with
    | false => exact .inr ⟨_, .inl ⟨declared, rfl⟩⟩
    | true =>
      obtain ⟨refuse, inCode⟩ : s.params.memOrg = .refuse ∧ s.inCode a.toNat = true := by
        simpa [Accessible, declared] using accessible
      exact .inr ⟨_, .inr (.inl ⟨declared, inCode, refuse, rfl⟩)⟩

section Accesses

variable {d : DataAccess} {s : State} {ea : Word}

theorem next_or_stopsAt_of_readByte (load : d.isLoad = true) (a : Word) (f : Byte → Res State) :
    (∃ b, s.readByte a = .next b) ∨ d.StopsAt s a (andThen (s.readByte a) f) := by
  obtain passes | ⟨x, stops⟩ := d.passes_or_stopsAt s a
  · exact .inl (passes.readByte load)
  · exact .inr (by rwa [stops.andThen_readByte])

theorem next_or_stopsAt_of_checkByte (store : d.isLoad = false) (a : Word) (f : Unit → Res State) :
    s.checkByte a = .next () ∨ d.StopsAt s a (andThen (s.checkByte a) f) := by
  obtain passes | ⟨x, stops⟩ := d.passes_or_stopsAt s a
  · exact .inl passes.checkByte
  · exact .inr (by rwa [stops.andThen_checkByte store])

/-- A word access goes to some address, and its bytes are those there, or it stops at its odd address (R36). -/
theorem next_or_stop_of_wordAddr (word : d.isWord = true) (f : Word → Res State) :
    (∃ w, s.wordAddr d.ea = .next w ∧ d.bytes s = [w.toNat, (w + 1#16).toNat]) ∨
      d.Stop s (andThen (s.wordAddr d.ea) f) := by
  cases goes : s.wordAddr d.ea with
  | next w => exact .inl ⟨w, rfl, by rw [DataAccess.bytes, if_pos word, wordBytes, goes]⟩
  | fault e => exact absurd goes wordAddr_ne_fault
  | refused e =>
    obtain ⟨odd, fault, rfl⟩ := wordAddr_eq_refused.1 goes
    exact .inr (.misaligned word ((bit0_eq_true_iff_odd _).1 odd) fault)

theorem next_or_stop_of_loadByte (len : Word) (ext : Byte → Word) (rd : Reg) :
    (∃ t, loadByte len ext rd ea s = .next t) ∨ DataAccess.Stop ⟨true, false, ea⟩ s (loadByte len ext rd ea s) := by
  obtain ⟨b, read⟩ | stops := next_or_stopsAt_of_readByte (d := ⟨true, false, ea⟩) (s := s) rfl ea
    fun b => writeReg len rd (ext b) s
  · exact .inl ⟨_, loadByte_eq_next.2 ⟨b, read, rfl⟩⟩
  · exact .inr (.atByte ea (List.mem_singleton.2 rfl) stops)

theorem next_or_stop_of_storeByte (len : Word) (b : Byte) :
    (∃ t, storeByte len ea b s = .next t) ∨ DataAccess.Stop ⟨false, false, ea⟩ s (storeByte len ea b s) := by
  rw [storeByte, State.writeByte, andThen_assoc]
  obtain passed | stops := next_or_stopsAt_of_checkByte (d := ⟨false, false, ea⟩) (s := s) rfl ea
    fun _ => .next ((s.putByte ea.toNat b).advance len)
  · exact .inl ⟨_, by rw [passed]; rfl⟩
  · exact .inr (.atByte ea (List.mem_singleton.2 rfl) stops)

theorem next_or_stop_of_loadWord (len : Word) (rd : Reg) :
    (∃ t, loadWord len rd ea s = .next t) ∨ DataAccess.Stop ⟨true, true, ea⟩ s (loadWord len rd ea s) := by
  rw [loadWord, State.readWord, andThen_assoc]
  obtain ⟨w, goes, bytes⟩ | stop := next_or_stop_of_wordAddr (d := ⟨true, true, ea⟩) (s := s) rfl _
  case inr => exact .inr stop
  rw [goes, andThen_next, andThen_assoc]
  obtain ⟨b0, first⟩ | stops := next_or_stopsAt_of_readByte (d := ⟨true, true, ea⟩) (s := s) rfl w _
  case inr => exact .inr (.atByte w (by simp [bytes]) stops)
  rw [first, andThen_next, andThen_assoc]
  obtain ⟨b1, second⟩ | stops := next_or_stopsAt_of_readByte (d := ⟨true, true, ea⟩) (s := s) rfl (w + 1#16) _
  case inr => exact .inr (.atByte (w + 1#16) (by simp [bytes]) stops)
  exact .inl ⟨_, by rw [second]; rfl⟩

theorem next_or_stop_of_storeWord (len v : Word) :
    (∃ t, storeWord len ea v s = .next t) ∨ DataAccess.Stop ⟨false, true, ea⟩ s (storeWord len ea v s) := by
  rw [storeWord, State.writeWord, andThen_assoc]
  obtain ⟨w, goes, bytes⟩ | stop := next_or_stop_of_wordAddr (d := ⟨false, true, ea⟩) (s := s) rfl _
  case inr => exact .inr stop
  rw [goes, andThen_next, andThen_assoc]
  obtain first | stops := next_or_stopsAt_of_checkByte (d := ⟨false, true, ea⟩) (s := s) rfl w _
  case inr => exact .inr (.atByte w (by simp [bytes]) stops)
  rw [first, andThen_next, andThen_assoc]
  obtain second | stops := next_or_stopsAt_of_checkByte (d := ⟨false, true, ea⟩) (s := s) rfl (w + 1#16) _
  case inr => exact .inr (.atByte (w + 1#16) (by simp [bytes]) stops)
  exact .inl ⟨_, by rw [second]; rfl⟩

end Accesses

/-! ## How an instruction stops (R180, R182) -/

/-- The ways an instruction can stop, with what the model's own tables (`amountRegister`, `dataAccess`) say of one that
stops so. `exec_next_or_stops` ties it to `exec`. -/
inductive Stops (i : Instr) (s : State) : Res State → Prop
  /-- A register shift by 16 or more where SHIFT_AMOUNT declines to choose (R116). -/
  | amount (r : Reg) (shifts : amountRegister i = some r) (large : 16 ≤ (s.reg r).toNat)
      (refuse : s.params.shiftAmount = .refuse) : Stops i s (.refused (.refusedShiftAmount s.pc (s.reg r)))
  /-- A load or a store whose access stops. -/
  | access {x : Res State} (d : DataAccess) (accesses : dataAccess s i = some d) (stop : d.Stop s x) : Stops i s x

theorem next_or_stops_of_shiftByReg {i : Instr} {s : State} {op : ShiftOp} {len a : Word} {rd r : Reg}
    (shifts : amountRegister i = some r) :
    (∃ t, shiftByReg op len rd a (s.reg r) s = .next t) ∨ Stops i s (shiftByReg op len rd a (s.reg r) s) := by
  cases done : shiftByReg op len rd a (s.reg r) s with
  | next t => exact .inl ⟨t, rfl⟩
  | fault e => exact absurd done shiftByReg_ne_fault
  | refused e =>
    obtain ⟨large, refuse, rfl⟩ := shiftByReg_eq_refused.1 done
    exact .inr (.amount r shifts large refuse)

theorem next_or_stops_of_access {i : Instr} {s : State} {d : DataAccess} {x : Res State}
    (accesses : dataAccess s i = some d) (h : (∃ t, x = .next t) ∨ d.Stop s x) : (∃ t, x = .next t) ∨ Stops i s x :=
  h.imp_right (.access d accesses)

/-- Every instruction completes, or stops for its amount register or for its data access. -/
theorem exec_next_or_stops (i : Instr) (s : State) : (∃ t, exec i s = .next t) ∨ Stops i s (exec i s) := by
  cases i with
  | add | sub | and | xor | or | addi | andi | xori | ori | li | lsli | lsri | asri
  | mov | add2 | sub2 | and2 | xor2 | or2 | addi2 | andi2 | lsi | lui | lsli2 | lsri2 | asri2
  | beq | bne | blt | bltu | ble | bleu | j | jal | jr | js | jalr | jsal | nop => exact .inl ⟨_, rfl⟩
  | lsl | lsr | asr | lsl2 | lsr2 | asr2 => exact next_or_stops_of_shiftByReg rfl
  | lw data base imm => rw [exec_lw]; exact next_or_stops_of_access rfl (next_or_stop_of_loadWord _ _)
  | lwsp rd imm => rw [exec_lwsp]; exact next_or_stops_of_access rfl (next_or_stop_of_loadWord _ _)
  | lb data base imm => rw [exec_lb]; exact next_or_stops_of_access rfl (next_or_stop_of_loadByte _ _ _)
  | lbu data base imm => rw [exec_lbu]; exact next_or_stops_of_access rfl (next_or_stop_of_loadByte _ _ _)
  | sw data base imm => rw [exec_sw]; exact next_or_stops_of_access rfl (next_or_stop_of_storeWord _ _)
  | swsp rs imm => rw [exec_swsp]; exact next_or_stops_of_access rfl (next_or_stop_of_storeWord _ _)
  | sb data base imm => rw [exec_sb]; exact next_or_stops_of_access rfl (next_or_stop_of_storeByte _ _)

theorem stops_of_exec_fault {i : Instr} {s : State} {e : Fault} (h : exec i s = .fault e) : Stops i s (.fault e) := by
  obtain ⟨t, done⟩ | stops := exec_next_or_stops i s
  · simp [h] at done
  · rwa [h] at stops

theorem stops_of_exec_refused {i : Instr} {s : State} {e : Refusal} (h : exec i s = .refused e) :
    Stops i s (.refused e) := by
  obtain ⟨t, done⟩ | stops := exec_next_or_stops i s
  · simp [h] at done
  · rwa [h] at stops

theorem dataAccess_eq_none_of_not_loadOrStore {i : Instr} (s : State)
    (not24 : ∀ d b m, i ≠ .lw d b m ∧ i ≠ .lb d b m ∧ i ≠ .lbu d b m ∧ i ≠ .sw d b m ∧ i ≠ .sb d b m)
    (notStack : ∀ r m, i ≠ .lwsp r m ∧ i ≠ .swsp r m) : dataAccess s i = none := by
  cases i with
  | lw d b m | lb d b m | lbu d b m | sw d b m | sb d b m => exact absurd (not24 d b m) (by simp)
  | lwsp r m | swsp r m => exact absurd (notStack r m) (by simp)
  | _ => rfl

theorem Stops.refuse_or_access {i : Instr} {s : State} {x : Res State} (h : Stops i s x) :
    s.params.shiftAmount = .refuse ∨ ∃ d, dataAccess s i = some d := by
  cases h with
  | amount r shifts large refuse => exact .inl refuse
  | access d accesses => exact .inr ⟨d, accesses⟩

/-- Settles O42: what is left has no data access to stop at, and its amount is not refused. -/
theorem nothingElseStopsAnInstruction : Obligations.NothingElseStopsAnInstruction := by
  intro i s notRefuse not24 notStack
  obtain done | stops := exec_next_or_stops i s
  · exact done
  · obtain refuse | ⟨d, accesses⟩ := stops.refuse_or_access
    · exact absurd refuse notRefuse
    · simp [dataAccess_eq_none_of_not_loadOrStore s not24 notStack] at accesses

/-- Settles O43: the word's address is fixed before any byte is checked, and its first byte before its second. -/
theorem wordStoreChecksInOrder : Obligations.WordStoreChecksInOrder := by
  intro s ea v
  refine ⟨fun odd fault => writeWord_eq_refused.2 (.inl (wordAddr_of_fault odd fault)), fun w goesTo => ?_⟩
  have goes : s.wordAddr ea = .next w := wordAddr_of_wordGoesTo goesTo
  refine ⟨fun undeclared => ?_, fun declared inCode refuse => ?_, fun first undeclared => ?_,
    fun first declared inCode refuse => ?_⟩
  · exact writeWord_eq_fault.2 ⟨w, goes, .inl (checkByte_eq_fault.2 ⟨undeclared, rfl⟩)⟩
  · exact writeWord_eq_refused.2 (.inr ⟨w, goes, .inl (checkByte_eq_refused.2 ⟨declared, inCode, refuse, rfl⟩)⟩)
  · exact writeWord_eq_fault.2
      ⟨w, goes, .inr ⟨checkByte_eq_next_iff_accessible.2 first, checkByte_eq_fault.2 ⟨undeclared, rfl⟩⟩⟩
  · exact writeWord_eq_refused.2 (.inr ⟨w, goes, .inr
      ⟨checkByte_eq_next_iff_accessible.2 first, checkByte_eq_refused.2 ⟨declared, inCode, refuse, rfl⟩⟩⟩)

/-! ## How a step stops (R183) -/

/-- A fetch faults at one of the three addresses it can read. -/
theorem fetch_fault_cases {s : State} {e : Fault} (h : s.fetch = .fault e) :
    ∃ a, (a = s.pc ∨ a = s.pc + 1 ∨ a = s.pc + 2) ∧ s.fetchByte a = .fault e := by
  obtain h | ⟨_, -, h | ⟨_, -, -, h⟩⟩ := fetch_eq_fault.1 h
  · exact ⟨_, .inl rfl, h⟩
  · exact ⟨_, .inr (.inl rfl), h⟩
  · exact ⟨_, .inr (.inr rfl), h⟩

/-- With the invariant, the image holds a byte at every address of IMEM_RANGE, so a byte that cannot be fetched is
outside it. -/
theorem State.Inv.inCode_of_fetchByte_fault {s : State} {a : Word} {e : Fault} (inv : s.Inv)
    (h : s.fetchByte a = .fault e) : s.inCode a.toNat = false := by
  obtain ⟨outside | noByte, -⟩ := fetchByte_eq_fault.1 h
  · exact outside
  · rw [← Bool.not_eq_true, inv.imageFull, noByte]
    simp

/-- The bytes of one fetch are enough for the decoder, so what it rejects is a reserved word: theirs. -/
theorem decode_error_of_fetch {s : State} {p : Params} {bytes : List Byte} {r : Reject}
    (fetched : s.fetch = .next bytes) (rejected : decode p bytes = .error r) : r = .reserved (insnOfBytes bytes) := by
  obtain ⟨b0, b1, -, -, rest⟩ := fetch_eq_next.1 fetched
  split at rest
  case isTrue odd =>
    obtain ⟨b2, -, rfl⟩ := rest
    rw [insnOfBytes_three]
    simp only [decode, odd, if_true] at rejected
    cases word : decode24 p (word24 b0 b1 b2) with
    | some i => simp [word] at rejected
    | none => simpa [word, eq_comm] using rejected
  case isFalse even =>
    subst rest
    rw [insnOfBytes_two]
    simp only [decode, even] at rejected
    cases word : decode16 (word16 b0 b1) with
    | some i => simp [word] at rejected
    | none => simpa [word, eq_comm] using rejected

/-- An instruction that faults makes a data access, one of whose bytes stops so. -/
theorem Stops.fault_cases {i : Instr} {s : State} {e : Fault} (h : Stops i s (.fault e)) :
    ∃ d a, dataAccess s i = some d ∧ a.toNat ∈ d.bytes s ∧ d.StopsAt s a (.fault e) ∧ e = .accessFault a := by
  cases h with
  | access d accesses stop =>
    cases stop with
    | atByte a byte stops => exact ⟨d, a, accesses, byte, stops, by simpa using stops.result_cases⟩

/-- An instruction that is refused is so for its amount, its odd word address, or a byte of its data access. -/
theorem Stops.refused_cases {i : Instr} {s : State} {e : Refusal} (h : Stops i s (.refused e)) :
    (∃ r, amountRegister i = some r ∧ 16 ≤ (s.reg r).toNat ∧ s.params.shiftAmount = .refuse ∧
        e = .refusedShiftAmount s.pc (s.reg r)) ∨
      (∃ d, dataAccess s i = some d ∧ d.isWord = true ∧ d.ea.toNat % 2 = 1 ∧ s.params.misalignedWord = .fault ∧
        e = .misalignedFault d.ea) ∨
      ∃ d a, dataAccess s i = some d ∧ a.toNat ∈ d.bytes s ∧ d.StopsAt s a (.refused e) ∧
        e = .refusedCodeAccess a := by
  cases h with
  | amount r shifts large refuse => exact .inl ⟨r, shifts, large, refuse, rfl⟩
  | access d accesses stop =>
    cases stop with
    | misaligned word odd fault => exact .inr (.inl ⟨d, accesses, word, odd, fault, rfl⟩)
    | atByte a byte stops => exact .inr (.inr ⟨d, a, accesses, byte, stops, by simpa using stops.result_cases⟩)

/-- A step faults in the fetch, at a reserved word, or as the instruction at pc does. -/
theorem step_fault_cases {s : State} {e : Fault} (h : step s = .fault e) :
    (∃ a, (a = s.pc ∨ a = s.pc + 1 ∨ a = s.pc + 2) ∧ s.fetchByte a = .fault e ∧ e = .fetchFault a) ∨
      (∃ bytes w, s.fetch = .next bytes ∧ decode s.params bytes = .error (.reserved w) ∧
        e = .illegalInstruction s.pc w) ∨
      ∃ i, s.runs i ∧ ∃ d a, dataAccess s i = some d ∧ a.toNat ∈ d.bytes s ∧ d.StopsAt s a (.fault e) ∧
        e = .accessFault a := by
  obtain fault | ⟨bytes, fetched, ⟨r, rejected, rfl⟩ | ⟨i, rest, decoded, done⟩⟩ := step_eq_fault.1 h
  · obtain ⟨a, place, byte⟩ := fetch_fault_cases fault
    exact .inl ⟨a, place, byte, (fetchByte_eq_fault.1 byte).2⟩
  · have reserved := decode_error_of_fetch fetched rejected
    exact .inr (.inl ⟨bytes, _, fetched, reserved ▸ rejected, rfl⟩)
  · exact .inr (.inr ⟨i, ⟨bytes, rest, fetched, decoded⟩, (stops_of_exec_fault done).fault_cases⟩)

theorem step_refused_cases {s : State} {e : Refusal} (h : step s = .refused e) :
    ∃ i, s.runs i ∧ Stops i s (.refused e) := by
  obtain ⟨bytes, i, rest, fetched, decoded, done⟩ := step_eq_refused.1 h
  exact ⟨i, ⟨bytes, rest, fetched, decoded⟩, stops_of_exec_refused done⟩

/-- Settles O41: each name of a stop belongs to one of the cases of `step_fault_cases` and `Stops.refused_cases`, and
that case holds its cause. -/
theorem everyStopHasItsCause : Obligations.EveryStopHasItsCause := by
  intro s
  refine ⟨fun a h => ?fetch, fun q w h => ?illegal, fun q v h => ?amount, fun a h => ?misaligned, fun a h => ?byte,
    fun r h => ?names⟩
  case fetch =>
    obtain ⟨_, place, byte, ⟨⟩⟩ | ⟨_, _, -, -, ⟨⟩⟩ | ⟨_, -, _, _, -, -, -, ⟨⟩⟩ := step_fault_cases h
    exact ⟨place, fun inv => inv.inCode_of_fetchByte_fault byte⟩
  case illegal =>
    obtain ⟨_, -, -, ⟨⟩⟩ | ⟨bytes, _, fetched, rejected, ⟨⟩⟩ | ⟨_, -, _, _, -, -, -, ⟨⟩⟩ := step_fault_cases h
    exact ⟨rfl, bytes, fetched, rejected⟩
  case amount =>
    obtain ⟨i, runs, stops⟩ := step_refused_cases h
    obtain ⟨r, shifts, large, refuse, ⟨⟩⟩ | ⟨_, -, -, -, -, ⟨⟩⟩ | ⟨_, _, -, -, -, ⟨⟩⟩ := stops.refused_cases
    exact ⟨rfl, large, refuse, i, r, runs, shifts, rfl⟩
  case misaligned =>
    obtain ⟨i, runs, stops⟩ := step_refused_cases h
    obtain ⟨_, -, -, -, ⟨⟩⟩ | ⟨d, accesses, word, odd, fault, ⟨⟩⟩ | ⟨_, _, -, -, -, ⟨⟩⟩ := stops.refused_cases
    exact ⟨odd, fault, i, d, runs, accesses, word, rfl⟩
  case byte =>
    obtain h | h := h <;> rw [h]
    · obtain ⟨_, -, -, ⟨⟩⟩ | ⟨_, _, -, -, ⟨⟩⟩ | ⟨i, runs, d, _, accesses, byte, stops, ⟨⟩⟩ := step_fault_cases h
      exact ⟨i, d, runs, accesses, byte, stops⟩
    · obtain ⟨i, runs, stops⟩ := step_refused_cases h
      obtain ⟨_, -, -, -, ⟨⟩⟩ | ⟨_, -, -, -, -, ⟨⟩⟩ | ⟨d, _, accesses, byte, stops, ⟨⟩⟩ := stops.refused_cases
      exact ⟨i, d, runs, accesses, byte, stops⟩
  case names =>
    obtain ⟨_, -, stops⟩ := step_refused_cases h
    obtain ⟨r, -, -, -, rfl⟩ | ⟨d, -, -, -, -, rfl⟩ | ⟨d, a, -, -, -, rfl⟩ := stops.refused_cases
    · exact .inl ⟨_, _, rfl⟩
    · exact .inr (.inl ⟨_, rfl⟩)
    · exact .inr (.inr ⟨_, rfl⟩)

end Sys2Proof.Machine
end

section
/-! PROOFS. The step, the placed instruction and the end of a run (70_reset_and_hazards.md R205, R206; log 4). -/

namespace Sys2Proof.Machine

/-! ## A step runs what is decoded (R205) -/

/-- Settles O48: nothing stands between the decoded instruction and its meaning. -/
theorem stepRunsTheDecodedInstruction : Obligations.StepRunsTheDecodedInstruction := by
  intro s bytes rest i fetched decoded
  rw [step, fetched, andThen_next, decoded]

/-! ## Bytes written with wrapping addresses (R18) -/

theorem Memory.read_writeAll_of_ne (m : Memory) (bs : List Byte) {a k : Nat}
    (away : ∀ j < bs.length, (a + j) % 65536 ≠ k) : Memory.read (Memory.writeAll m a bs) k = Memory.read m k := by
  induction bs generalizing m a with
  | nil => rfl
  | cons b bs ih =>
    have first : k ≠ a % 65536 := (away 0 (Nat.zero_lt_succ _)).symm
    rw [Memory.writeAll, ih, Memory.read_write_other m b first]
    intro j hj
    rw [Nat.add_right_comm]
    exact away (j + 1) (Nat.succ_lt_succ hj)

/-- As many bytes as there are addresses or fewer, written modulo 65536: each is read back where it was written. -/
theorem Memory.read_writeAll_wrapped (m : Memory) (bs : List Byte) {a k : Nat} (short : bs.length ≤ 65536)
    (hk : k < bs.length) : Memory.read (Memory.writeAll m a bs) ((a + k) % 65536) = some bs[k] := by
  induction bs generalizing m a k with
  | nil => exact absurd hk (Nat.not_lt_zero k)
  | cons b bs ih =>
    rw [List.length_cons] at short hk
    rw [Memory.writeAll]
    cases k with
    | zero =>
      rw [Memory.read_writeAll_of_ne _ _ (by omega)]
      exact Memory.read_write_self m _ b
    | succ k =>
      have shifted : a + (k + 1) = a + 1 + k := by omega
      rw [shifted]
      exact ih _ (Nat.le_of_succ_le short) (Nat.lt_of_succ_lt_succ hk)

/-! ## The instruction placed at pc (log 4) -/

theorem rangeForFetch_has (r : AddrRange) (pc : Word) {k : Nat} (hk : k < 3) :
    rangeHas (rangeForFetch r pc) (pc + BitVec.ofNat 16 k).toNat = true := by
  unfold rangeForFetch
  split
  next held =>
    simp only [Bool.and_eq_true] at held
    obtain ⟨⟨first, second⟩, third⟩ := held
    match k with
    | 0 => simpa using first
    | 1 => exact second
    | 2 => exact third
  next =>
    rw [BitVec.toNat_add, BitVec.toNat_ofNat]
    split <;> (rw [rangeHas_iff]; dsimp only; omega)

/-- Each of the three bytes placed at pc is fetched from its own address, also across the wrap. -/
theorem fetchByte_withFetchBytes (s : State) {bs : List Byte} (three : bs.length = 3) {k : Nat} (hk : k < bs.length) :
    (s.withFetchBytes bs).fetchByte (s.pc + BitVec.ofNat 16 k) = .next bs[k] := by
  refine fetchByte_eq_next.2 ⟨rangeForFetch_has s.imemRange s.pc (three ▸ hk), ?_⟩
  have address : (s.pc + BitVec.ofNat 16 k).toNat = (s.pc.toNat + k) % 65536 := by
    rw [BitVec.toNat_add, BitVec.toNat_ofNat]
    omega
  rw [address]
  exact Memory.read_writeAll_wrapped s.imem bs (by omega) hk

/-- Of three placed bytes the fetch takes all, or the first two where bit 0 of the first is 0 (R51). -/
theorem fetch_withFetchBytes (s : State) (b0 b1 b2 : Byte) :
    (s.withFetchBytes [b0, b1, b2]).fetch = .next (if b0[0] then [b0, b1, b2] else [b0, b1]) := by
  have fetched {k : Nat} (hk : k < 3) := fetchByte_withFetchBytes s (bs := [b0, b1, b2]) rfl hk
  have first : (s.withFetchBytes [b0, b1, b2]).fetchByte s.pc = .next b0 :=
    (BitVec.add_zero s.pc) ▸ fetched (k := 0) (by decide)
  refine fetch_eq_next.2 ⟨b0, b1, first, fetched (k := 1) (by decide), ?_⟩
  cases b0[0] with
  | true => exact ⟨b2, fetched (k := 2) (by decide), rfl⟩
  | false => rfl

/-- The decoder reads the same instruction from what the fetch takes of three bytes as from all three. -/
theorem decode_fetched {p : Params} {b0 b1 b2 : Byte} {i : Instr} {rest : List Byte}
    (decoded : decode p [b0, b1, b2] = .ok (i, rest)) :
    ∃ rest', decode p (if b0[0] then [b0, b1, b2] else [b0, b1]) = .ok (i, rest') := by
  split
  case isTrue => exact ⟨rest, decoded⟩
  case isFalse even =>
    refine ⟨[], ?_⟩
    simp only [decode, even] at decoded ⊢
    cases word : decode16 (word16 b0 b1) with
    | none => simp [word] at decoded
    | some j =>
      obtain ⟨rfl, -⟩ : j = i ∧ [b2] = rest := by simpa [word] using decoded
      simp

/-- Settles O51: the three placed bytes are in IMEM_RANGE and in the image, and what the fetch takes of them decodes to
the instruction. -/
theorem placedInstructionRunsNext : Obligations.PlacedInstructionRunsNext := by
  intro s nbits w i rest decoded
  obtain ⟨rest', fetched⟩ := decode_fetched decoded
  exact stepRunsTheDecodedInstruction _ _ rest' i (fetch_withFetchBytes s _ _ _) fetched

/-! ## A jump to itself (R206) -/

/-- A jump by no offset is a jump to itself. -/
theorem setPc_add_sext_zero (s : State) (n : Nat) : s.setPc (s.pc + sext (0 : BitVec n)) = s := by
  have noOffset : s.pc + sext (0 : BitVec n) = s.pc := by simp [sext_eq_ofInt]
  rw [noOffset]
  rfl

theorem branch_zero_of_taken {c : Bool} (taken : c = true) (s : State) : branch c 0 s = .next s := by
  rw [branch_eq, if_pos taken, setPc_add_sext_zero]

/-- No instruction is of a multiple of 65536 bytes: the advance moves pc. -/
theorem encodedLength_ne_zero (i : Instr) : encodedLength i ≠ 0 := by
  obtain ⟨b, _, -, length⟩ := encode_firstByte i
  rw [encodedLength, length]
  cases b[0] <;> decide

/-- Settles O52: the offset 0 leads back to pc, and an instruction that sets no pc moves it by its length. -/
theorem onlyAJumpToItselfEndsARun : Obligations.OnlyAJumpToItselfEndsARun := by
  refine ⟨fun s => ?js, fun r q s same => ⟨?beq, ?ble, ?bleu⟩, fun r s same => ?jr, fun i s stays => ?sets⟩
  case js => exact congrArg _ (setPc_add_sext_zero s 11)
  case beq => exact branch_zero_of_taken (by simp [condEq, same]) s
  case ble => exact branch_zero_of_taken (by rw [same]; exact decide_eq_true le_rfl) s
  case bleu => exact branch_zero_of_taken (by rw [same]; exact decide_eq_true le_rfl) s
  case jr => exact congrArg (fun t => Host.Outcome.next (s.setPc t)) same
  case sets =>
    rw [← Bool.not_eq_false]
    intro straight
    exact encodedLength_ne_zero i (left_eq_add.1 ((exec_completes stays).pc_of_not_setsPc straight))

/-! ## The end of a run (R206) -/

theorem step_of_ended {s : State} (ended : s.ended = true) : step s = .next s := by
  unfold State.ended at ended
  cases h : step s with
  | next t => simpa [h] using ended
  | fault e => simp [h] at ended
  | refused e => simp [h] at ended

/-- Settles O53, by induction on the number of steps: the first leads back to the state. -/
theorem anEndedRunStaysEnded : Obligations.AnEndedRunStaysEnded := by
  intro s k ended
  induction k with
  | zero => rfl
  | succ k ih => exact (run_succ_eq_next Sys2Proof.core).2 ⟨s, step_of_ended ended, ih⟩

end Sys2Proof.Machine
end

section
/-! PROOFS. Reset and launch (70_reset_and_hazards.md R200 to R204): the state after reset, which launches are refused,
and the state that the others start in. -/

namespace Sys2Proof.Machine

/-! ## Reset (R200) -/

theorem not_inCode_reset (a : Nat) : State.reset.inCode a = false := by
  rw [← Bool.not_eq_true, State.inCode, rangeHas_iff]
  exact fun ⟨_, above⟩ => Nat.not_lt_zero a above

/-- Settles O55: both byte maps and IMEM_RANGE are empty. -/
theorem resetHasTheInvariant : Obligations.ResetHasTheInvariant where
  imemWf := rfl
  dmemWf := rfl
  rangeFits := Nat.zero_le _
  imageFull a := by
    rw [not_inCode_reset]
    simp [State.reset]
  dataDeclared a held := by simp [State.reset] at held

/-- Settles O60: with IMEM_RANGE empty the first fetch fails; DMEM_RANGE is every 16-bit address. -/
theorem resetStateIsAsDescribed : Obligations.ResetStateIsAsDescribed := by
  refine ⟨rfl, fun _ => rfl, fun _ => rfl, fun r => ?registers, ?step, fun a => ⟨?declared, not_inCode_reset a.toNat⟩⟩
  case registers => exact Vector.getElem_replicate r.isLt
  case step => exact step_eq_fault.2 (.inl (fetch_eq_fault.2 (.inl (fetchByte_outside (not_inCode_reset _)))))
  case declared =>
    rw [State.declared, List.any_eq_true]
    exact ⟨⟨0, 65536⟩, List.mem_singleton.2 rfl, (rangeHas_iff _ _).2 ⟨Nat.zero_le _, by simpa using a.isLt⟩⟩

/-! ## Which launches are refused (R204) -/

theorem not_mustRefuse_iff (l : Launch) :
    ¬l.MustRefuse ↔ l.image ≠ [] ∧ l.imageBase + l.image.length ≤ 65536 ∧
      rangeHas l.imemRange l.resetPc.toNat = true ∧ l.params.listed = true := by
  rw [launch_imemRange_has_iff, params_listed_iff]
  simp only [Launch.MustRefuse, not_or, not_not, Nat.not_lt, ne_eq]

theorem dataDeclared_iff (l : Launch) : l.DataDeclared ↔ l.data.all l.declares = true := by
  simp only [Launch.DataDeclared, List.all_eq_true, launch_declares_iff]

/-- Exactly the launches that neither R204 nor log 23 refuses start, each in the state it describes. -/
theorem launch_start_eq_ok_iff {l : Launch} {s : State} :
    l.start = .ok s ↔ ¬l.MustRefuse ∧ l.DataDeclared ∧ s = l.state := by
  rw [not_mustRefuse_iff, dataDeclared_iff]
  constructor
  · intro started
    obtain ⟨image, fits, pc, listed, data, state⟩ := launch_start_eq_ok started
    exact ⟨⟨image, fits, pc, listed⟩, data, state⟩
  · rintro ⟨⟨image, fits, pc, listed⟩, data, rfl⟩
    simp [Launch.start, image, Nat.not_lt.2 fits, pc, listed, data]

theorem launch_refused_of_not_ok {l : Launch} (h : ∀ s, l.start ≠ .ok s) : ∃ e, l.start = .error e := by
  cases start : l.start with
  | error e => exact ⟨e, rfl⟩
  | ok s => exact absurd start (h s)

/-- Settles O57: what does not start is refused. -/
theorem launchRefusesWhatItMust : Obligations.LaunchRefusesWhatItMust := by
  refine fun l => ⟨fun must => launch_refused_of_not_ok fun s started => ?_, fun may data => ?_,
    fun undeclared => launch_refused_of_not_ok fun s started => ?_⟩
  · obtain ⟨may, -⟩ := launch_start_eq_ok_iff.1 started
    exact may must
  · exact launch_start_eq_ok_iff.2 ⟨may, data, rfl⟩
  · obtain ⟨-, data, -⟩ := launch_start_eq_ok_iff.1 started
    exact undeclared data

/-! ## A list of writes, one after another (R203) -/

section Folds

variable {σ κ β α : Type} [DecidableEq κ] {put : σ → κ × β → σ} {get : σ → κ → α} {f : β → α}

/-- What no write names stays. -/
theorem get_foldl_of_notMem (law : ∀ m c k, get (put m c) k = if k = c.1 then f c.2 else get m k)
    (writes : List (κ × β)) (m : σ) {k : κ} (absent : ∀ v, (k, v) ∉ writes) :
    get (writes.foldl put m) k = get m k := by
  induction writes generalizing m with
  | nil => rfl
  | cons c writes ih =>
    have other : k ≠ c.1 := fun same => absent c.2 (same ▸ List.mem_cons_self)
    rw [List.foldl_cons, ih _ fun v given => absent v (List.mem_cons_of_mem c given), law, if_neg other]

/-- What is there, or is written, and is written with no other value, is there after the writes. -/
theorem get_foldl_of_unique (law : ∀ m c k, get (put m c) k = if k = c.1 then f c.2 else get m k)
    (writes : List (κ × β)) (m : σ) {k : κ} {v : β} (unique : ∀ u, (k, u) ∈ writes → u = v)
    (given : get m k = f v ∨ (k, v) ∈ writes) : get (writes.foldl put m) k = f v := by
  induction writes generalizing m with
  | nil => exact given.resolve_right List.not_mem_nil
  | cons c writes ih =>
    refine ih (put m c) (fun u later => unique u (List.mem_cons_of_mem c later)) ?_
    rw [law]
    split
    next same => exact .inl (congrArg f (unique c.2 (same ▸ List.mem_cons_self)))
    next other =>
      refine given.imp_right fun member => (List.mem_cons.1 member).resolve_left ?_
      rintro rfl
      exact other rfl

end Folds

/-- A register write, on the register file alone (R10, R11). -/
theorem regs_getElem_set (regs : Vector Word 16) (c : Reg × Word) (r : Reg) :
    (regs.set c.1 c.2)[r.val] = if r = c.1 then c.2 else regs[r.val] := by
  rw [Vector.getElem_set]
  simp only [Fin.ext_iff, eq_comm]

/-! ## The state a launch starts in (R203) -/

/-- The image's bytes and no others stand in IMem. -/
theorem launch_state_imem_read {l : Launch} (fits : l.imageBase + l.image.length ≤ 65536) (a : Nat) :
    Memory.read l.state.imem a =
      if l.imageBase ≤ a ∧ a < l.imageBase + l.image.length then l.image[a - l.imageBase]? else none :=
  Memory.read_writeAll [] l.image a fits

theorem launch_state_dmem_read_of_notMem {l : Launch} {a : Nat} (absent : ∀ b, (a, b) ∉ l.data) :
    Memory.read l.state.dmem a = none :=
  get_foldl_of_notMem (get := Memory.read) (f := some) (fun m c k => Memory.read_write m c.1 k c.2) l.data [] absent

theorem launch_state_dmem_read_of_unique {l : Launch} {a : Nat} {b : Byte} (given : (a, b) ∈ l.data)
    (unique : ∀ c, (a, c) ∈ l.data → c = b) : Memory.read l.state.dmem a = some b :=
  get_foldl_of_unique (fun m c k => Memory.read_write m c.1 k c.2) l.data [] unique (.inr given)

theorem launch_state_reg_of_notMem {l : Launch} {r : Reg} (absent : ∀ v, (r, v) ∉ l.regs) :
    l.state.reg r = State.reset.reg r :=
  get_foldl_of_notMem (get := fun regs r => regs[r.val]) (f := id) regs_getElem_set l.regs _ absent

theorem launch_state_reg_of_unique {l : Launch} {r : Reg} {v : Word} (given : (r, v) ∈ l.regs)
    (unique : ∀ u, (r, u) ∈ l.regs → u = v) : l.state.reg r = v :=
  get_foldl_of_unique (get := fun regs r => regs[r.val]) (f := id) regs_getElem_set l.regs _ unique (.inr given)

theorem wf_foldl_write {m : Memory} {data : List Host.Cell} (wf : Memory.wf m = true)
    (low : ∀ c ∈ data, c.1 < 65536) : Memory.wf (data.foldl (fun m c => Memory.write m c.1 c.2) m) = true := by
  induction data generalizing m with
  | nil => exact wf
  | cons c data ih =>
    obtain ⟨first, rest⟩ := List.forall_mem_cons.1 low
    exact ih (Memory.wf_write c.2 wf first) rest

/-- A launch with an image that fits and with data bytes of DMEM_RANGE has the invariant. -/
theorem launch_state_inv {l : Launch} (fits : l.imageBase + l.image.length ≤ 65536) (data : l.DataDeclared) :
    l.state.Inv where
  imemWf := Memory.wf_writeAll l.image l.imageBase Memory.wf_nil
  dmemWf := wf_foldl_write Memory.wf_nil fun c given => (data c given).1
  rangeFits := fits
  imageFull a := by
    rw [State.inCode, launch_state_imemRange, launch_imemRange_has_iff, launch_state_imem_read fits]
    split
    next inside =>
      have index : a - l.imageBase < l.image.length := by omega
      simp [inside, index]
    next outside => simp [outside]
  dataDeclared a held := by
    by_cases absent : ∀ b, (a, b) ∉ l.data
    · simp [launch_state_dmem_read_of_notMem absent] at held
    · obtain ⟨b, given⟩ := not_forall_not.1 absent
      obtain ⟨-, r, range, inside⟩ := data _ given
      exact List.any_eq_true.2 ⟨r, range, (rangeHas_iff r a).2 inside⟩

/-- Settles O56: the parts of the launched state, each by its own lemma. -/
theorem launchStartsWithItsImage : Obligations.LaunchStartsWithItsImage := by
  intro l s started
  obtain ⟨-, data, rfl⟩ := launch_start_eq_ok_iff.1 started
  obtain ⟨-, fits, pc, listed, -⟩ := launch_start_eq_ok started
  refine ⟨launch_state_inv fits data, rfl, rfl, listed, pc, rfl, rfl, fun k hk => ?image,
    fun a b => launch_state_dmem_read_of_unique, fun a => launch_state_dmem_read_of_notMem,
    fun r v => launch_state_reg_of_unique, fun r absent => ?unnamed⟩
  case image => simp [launch_state_imem_read fits, hk]
  case unnamed =>
    obtain ⟨-, -, -, zero, -⟩ := resetStateIsAsDescribed
    exact (launch_state_reg_of_notMem absent).trans (zero r)

end Sys2Proof.Machine
end
